-- ==== Sys2Proof/Word.lean ====
section
/-! DEFINITION. The word types of the machine (00_scope.md R3: XLEN = 8, ALEN = 16) and the bit fields of an instruction word. -/

namespace Sys2Proof

/-- A register, a memory byte, a timer: 8 bits (`XLEN`, R3). -/
abbrev Byte := BitVec 8

/-- `PC`, `I`, a stack slot, an instruction word: 16 bits (`ALEN`, R3). -/
abbrev Word := BitVec 16

/-- The field `NNN` of an instruction word: 12 bits (R91). -/
abbrev Addr := BitVec 12

/-- The number of a general register: 0 to 15 (`NREG`, R20). -/
abbrev Reg := Fin 16

/-- The index of a key input: 0 to 15 (`NKEYS`, R29). -/
abbrev Key := Fin 16

/-- The flag register (`FLAG_REG` = 15, R21). -/
abbrev flagReg : Reg := 15

end Sys2Proof
end

