-- ==== Sys2Proof/Syntax.lean ====
section
/-! DEFINITION. The 34 instructions of 30_encoding.md R95, one constructor per row of spec/opcode_table.json, in its order. -/

namespace Sys2Proof

/-- An instruction, its operand fields already taken apart (R91, R93): `x` and `y` are register numbers (in `stRegs` and
`ldRegs` the number of the last register), `nn` the byte, `nnn` the address, `n` the number of sprite rows. -/
inductive Instr where
  | cls
  | ret
  | jp (nnn : Addr)
  | call (nnn : Addr)
  | seImm (x : Reg) (nn : Byte)
  | sneImm (x : Reg) (nn : Byte)
  | seReg (x y : Reg)
  | ldImm (x : Reg) (nn : Byte)
  | addImm (x : Reg) (nn : Byte)
  | ldReg (x y : Reg)
  | or (x y : Reg)
  | and (x y : Reg)
  | xor (x y : Reg)
  | addReg (x y : Reg)
  | sub (x y : Reg)
  | shr (x y : Reg)
  | subn (x y : Reg)
  | shl (x y : Reg)
  | sneReg (x y : Reg)
  | ldI (nnn : Addr)
  | jpV0 (nnn : Addr)
  | rnd (x : Reg) (nn : Byte)
  | drw (x y : Reg) (n : Fin 16)
  | skp (x : Reg)
  | sknp (x : Reg)
  | ldVxDt (x : Reg)
  | ldVxK (x : Reg)
  | ldDtVx (x : Reg)
  | ldStVx (x : Reg)
  | addI (x : Reg)
  | ldF (x : Reg)
  | ldB (x : Reg)
  | stRegs (x : Reg)
  | ldRegs (x : Reg)
  deriving DecidableEq, Repr

/-- An operand as R99 writes it. Numbers are not yet checked. -/
inductive AsmOperand where
  /-- `V0` to `VF` -/
  | v (n : Nat)
  /-- a number -/
  | num (n : Nat)
  /-- a label, standing for its address -/
  | sym (label : String)
  /-- `I` -/
  | i
  /-- `[I]` -/
  | atI
  /-- `DT` -/
  | dt
  /-- `ST` -/
  | st
  /-- `K` -/
  | k
  /-- `F` -/
  | f
  /-- `B` -/
  | b
  deriving DecidableEq, Repr

/-- What one line of R99 asks for: an instruction, or one of the two data directives. -/
inductive AsmBody where
  | op (name : String) (operands : List AsmOperand)
  /-- `DW 0xhhhh` -/
  | dw (n : Nat)
  /-- `DB 0xhh` -/
  | db (n : Nat)
  deriving DecidableEq, Repr

/-- One line of a source program (R99), its comment dropped. -/
structure AsmLine where
  label : Option String := none
  body : AsmBody
  deriving DecidableEq, Repr

/-- The assembler name of an instruction (R99, third column). -/
def Instr.asmName : Instr → String
  | .cls => "CLS"
  | .ret => "RET"
  | .jp _ => "JP"
  | .call _ => "CALL"
  | .seImm _ _ => "SE"
  | .sneImm _ _ => "SNE"
  | .seReg _ _ => "SE"
  | .ldImm _ _ => "LD"
  | .addImm _ _ => "ADD"
  | .ldReg _ _ => "LD"
  | .or _ _ => "OR"
  | .and _ _ => "AND"
  | .xor _ _ => "XOR"
  | .addReg _ _ => "ADD"
  | .sub _ _ => "SUB"
  | .shr _ _ => "SHR"
  | .subn _ _ => "SUBN"
  | .shl _ _ => "SHL"
  | .sneReg _ _ => "SNE"
  | .ldI _ => "LD"
  | .jpV0 _ => "JP"
  | .rnd _ _ => "RND"
  | .drw _ _ _ => "DRW"
  | .skp _ => "SKP"
  | .sknp _ => "SKNP"
  | .ldVxDt _ => "LD"
  | .ldVxK _ => "LD"
  | .ldDtVx _ => "LD"
  | .ldStVx _ => "LD"
  | .addI _ => "ADD"
  | .ldF _ => "LD"
  | .ldB _ => "LD"
  | .stRegs _ => "LD"
  | .ldRegs _ => "LD"

/-- The operands of an instruction as R99 writes them. -/
def Instr.asmOperands : Instr → List AsmOperand
  | .cls => []
  | .ret => []
  | .jp nnn => [.num nnn.toNat]
  | .call nnn => [.num nnn.toNat]
  | .seImm x nn => [.v x, .num nn.toNat]
  | .sneImm x nn => [.v x, .num nn.toNat]
  | .seReg x y => [.v x, .v y]
  | .ldImm x nn => [.v x, .num nn.toNat]
  | .addImm x nn => [.v x, .num nn.toNat]
  | .ldReg x y => [.v x, .v y]
  | .or x y => [.v x, .v y]
  | .and x y => [.v x, .v y]
  | .xor x y => [.v x, .v y]
  | .addReg x y => [.v x, .v y]
  | .sub x y => [.v x, .v y]
  | .shr x y => [.v x, .v y]
  | .subn x y => [.v x, .v y]
  | .shl x y => [.v x, .v y]
  | .sneReg x y => [.v x, .v y]
  | .ldI nnn => [.i, .num nnn.toNat]
  | .jpV0 nnn => [.v 0, .num nnn.toNat]
  | .rnd x nn => [.v x, .num nn.toNat]
  | .drw x y n => [.v x, .v y, .num n]
  | .skp x => [.v x]
  | .sknp x => [.v x]
  | .ldVxDt x => [.v x, .dt]
  | .ldVxK x => [.v x, .k]
  | .ldDtVx x => [.dt, .v x]
  | .ldStVx x => [.st, .v x]
  | .addI x => [.i, .v x]
  | .ldF x => [.f, .v x]
  | .ldB x => [.b, .v x]
  | .stRegs x => [.atI, .v x]
  | .ldRegs x => [.v x, .atI]

end Sys2Proof
end

