-- ==== Sys2Proof/WellFormed.lean ====
section
/-! DEFINITION. Which written instructions are well formed (30_encoding.md R93, R99). A term of `Instr` has fields of exactly
the widths of R91, so it is well formed by its type; what is checked is the written line, whose numbers may be too large,
whose operands may be of the wrong kind and whose name may be no instruction. -/

namespace Sys2Proof

/-- `V0` to `VF`. -/
def reg? (n : Nat) : Option Reg := if h : n < 16 then some ⟨n, h⟩ else none

/-- `nn`, a byte 0 to 0xFF. -/
def byte? (n : Nat) : Option Byte := if n < 256 then some (BitVec.ofNat 8 n) else none

/-- `nnn`, an address 0 to 0xFFF. -/
def addr? (n : Nat) : Option Addr := if n < 4096 then some (BitVec.ofNat 12 n) else none

/-- `n`, 0 to 0xF. -/
def rows? (n : Nat) : Option (Fin 16) := if h : n < 16 then some ⟨n, h⟩ else none

/-- The two-register operations of R99, by name. -/
def regRegOp? (name : String) : Option (Reg → Reg → Instr) :=
  if name = "SE" then some .seReg
  else if name = "SNE" then some .sneReg
  else if name = "LD" then some .ldReg
  else if name = "OR" then some .or
  else if name = "AND" then some .and
  else if name = "XOR" then some .xor
  else if name = "ADD" then some .addReg
  else if name = "SUB" then some .sub
  else if name = "SHR" then some .shr
  else if name = "SUBN" then some .subn
  else if name = "SHL" then some .shl
  else none

/-- The register and number operations of R99, by name. `JP V0, nnn` takes register 0 only. -/
def regNumOp? (name : String) (x n : Nat) : Option Instr :=
  if name = "SE" then (reg? x).bind fun x => (byte? n).map (.seImm x)
  else if name = "SNE" then (reg? x).bind fun x => (byte? n).map (.sneImm x)
  else if name = "LD" then (reg? x).bind fun x => (byte? n).map (.ldImm x)
  else if name = "ADD" then (reg? x).bind fun x => (byte? n).map (.addImm x)
  else if name = "RND" then (reg? x).bind fun x => (byte? n).map (.rnd x)
  else if name = "JP" ∧ x = 0 then (addr? n).map .jpV0
  else none

/-- The instruction a written name and its operands stand for (R99), labels already replaced by their addresses; none where
the line is ill formed. -/
def readOp (name : String) : List AsmOperand → Option Instr
  | [] => if name = "CLS" then some .cls else if name = "RET" then some .ret else none
  | [.num n] =>
    if name = "JP" then (addr? n).map .jp else if name = "CALL" then (addr? n).map .call else none
  | [.v x] => if name = "SKP" then (reg? x).map .skp else if name = "SKNP" then (reg? x).map .sknp else none
  | [.v x, .num n] => regNumOp? name x n
  | [.v x, .v y] => (regRegOp? name).bind fun op => (reg? x).bind fun x => (reg? y).map (op x)
  | [.i, .num n] => if name = "LD" then (addr? n).map .ldI else none
  | [.v x, .v y, .num n] =>
    if name = "DRW" then (reg? x).bind fun x => (reg? y).bind fun y => (rows? n).map (.drw x y) else none
  | [.v x, .dt] => if name = "LD" then (reg? x).map .ldVxDt else none
  | [.v x, .k] => if name = "LD" then (reg? x).map .ldVxK else none
  | [.dt, .v x] => if name = "LD" then (reg? x).map .ldDtVx else none
  | [.st, .v x] => if name = "LD" then (reg? x).map .ldStVx else none
  | [.i, .v x] => if name = "ADD" then (reg? x).map .addI else none
  | [.f, .v x] => if name = "LD" then (reg? x).map .ldF else none
  | [.b, .v x] => if name = "LD" then (reg? x).map .ldB else none
  | [.atI, .v x] => if name = "LD" then (reg? x).map .stRegs else none
  | [.v x, .atI] => if name = "LD" then (reg? x).map .ldRegs else none
  | _ => none

/-- A written line is well formed: an instruction of R99 with operands of the right kinds in their ranges, or a data
directive whose number fits. A label operand is not resolved here. -/
def AsmBody.wf : AsmBody → Bool
  | .op name operands => (readOp name operands).isSome
  | .dw n => n < 65536
  | .db n => n < 256

/-- An instruction is well formed when R99 can write it and reads it back. Every term of `Instr` is (Laws/PerInstr.lean). -/
def Instr.wf (i : Instr) : Bool := readOp i.asmName i.asmOperands = some i

end Sys2Proof
end

