-- ==== Sys2Proof/Decode.lean ====
section
/-! DEFINITION. The decoder (30_encoding.md R91 to R97), the encoder, and the opcode map of R95. -/

namespace Sys2Proof

/-- The Decoded Instruction of R91: the six fields of one word. -/
structure Fields where
  f : BitVec 4
  x : BitVec 4
  y : BitVec 4
  n : BitVec 4
  nn : Byte
  nnn : Addr
  deriving DecidableEq, Repr

/-- R91: `F = w[15:12]`, `X = w[11:8]`, `Y = w[7:4]`, `N = w[3:0]`, `NN = w[7:0]`, `NNN = w[11:0]`. -/
def fields (w : Word) : Fields where
  f := w.extractLsb' 12 4
  x := w.extractLsb' 8 4
  y := w.extractLsb' 4 4
  n := w.extractLsb' 0 4
  nn := w.extractLsb' 0 8
  nnn := w.extractLsb' 0 12

/-- Why the decoder reads no instruction from a word or from bytes. None of these is an error of the machine (R96). -/
inductive DecodeReject where
  /-- class A of R97: the word differs from a pattern only in a digit the pattern fixes -/
  | aliasWord
  /-- class U of R97: a plain unknown sub-case -/
  | unknownWord
  /-- fewer than two bytes are left (R90) -/
  | truncated
  deriving DecidableEq, Repr

/-- A 4-bit field as a number 0 to 15. -/
def nibble (b : BitVec 4) : Fin 16 := ⟨b.toNat, b.isLt⟩

/-- The class of an unassigned word (R97), for a word that matches no pattern. -/
def unassignedClass (d : Fields) : DecodeReject :=
  match d.f.toNat with
  | 0 => if d.n = 0x0 ∨ d.n = 0xE then .aliasWord else .unknownWord
  | 5 => .aliasWord
  | 9 => .aliasWord
  | 14 => if d.n = 0xE ∨ d.n = 0x1 then .aliasWord else .unknownWord
  | 15 =>
    if d.n = 0x3 ∨ d.n = 0x5 ∨ d.n = 0x7 ∨ d.n = 0x8 ∨ d.n = 0x9 ∨ d.n = 0xA ∨ d.n = 0xE then .aliasWord else .unknownWord
  | _ => .unknownWord

/-- Family 8 (R95): the selector is `N`. -/
def decode8 (d : Fields) : Except DecodeReject Instr :=
  let x := nibble d.x
  let y := nibble d.y
  match d.n.toNat with
  | 0x0 => .ok (.ldReg x y)
  | 0x1 => .ok (.or x y)
  | 0x2 => .ok (.and x y)
  | 0x3 => .ok (.xor x y)
  | 0x4 => .ok (.addReg x y)
  | 0x5 => .ok (.sub x y)
  | 0x6 => .ok (.shr x y)
  | 0x7 => .ok (.subn x y)
  | 0xE => .ok (.shl x y)
  | _ => .error (unassignedClass d)

/-- Family F (R95): the selector is `NN`. -/
def decodeF (d : Fields) : Except DecodeReject Instr :=
  let x := nibble d.x
  match d.nn.toNat with
  | 0x07 => .ok (.ldVxDt x)
  | 0x0A => .ok (.ldVxK x)
  | 0x15 => .ok (.ldDtVx x)
  | 0x18 => .ok (.ldStVx x)
  | 0x1E => .ok (.addI x)
  | 0x29 => .ok (.ldF x)
  | 0x33 => .ok (.ldB x)
  | 0x55 => .ok (.stRegs x)
  | 0x65 => .ok (.ldRegs x)
  | _ => .error (unassignedClass d)

/-- The two-level selection of R94 and R95 (the map by family and selector at the end of R95). -/
def decodeFields (d : Fields) : Except DecodeReject Instr :=
  let x := nibble d.x
  let y := nibble d.y
  match d.f.toNat with
  | 0x0 => if d.nnn = 0x0E0 then .ok .cls else if d.nnn = 0x0EE then .ok .ret else .error (unassignedClass d)
  | 0x1 => .ok (.jp d.nnn)
  | 0x2 => .ok (.call d.nnn)
  | 0x3 => .ok (.seImm x d.nn)
  | 0x4 => .ok (.sneImm x d.nn)
  | 0x5 => if d.n = 0 then .ok (.seReg x y) else .error (unassignedClass d)
  | 0x6 => .ok (.ldImm x d.nn)
  | 0x7 => .ok (.addImm x d.nn)
  | 0x8 => decode8 d
  | 0x9 => if d.n = 0 then .ok (.sneReg x y) else .error (unassignedClass d)
  | 0xA => .ok (.ldI d.nnn)
  | 0xB => .ok (.jpV0 d.nnn)
  | 0xC => .ok (.rnd x d.nn)
  | 0xD => .ok (.drw x y (nibble d.n))
  | 0xE => if d.nn = 0x9E then .ok (.skp x) else if d.nn = 0xA1 then .ok (.sknp x) else .error (unassignedClass d)
  | _ => decodeF d

/-- The decoder: total on every 16-bit word; a word with no instruction is rejected by the name of its class (R92, R96). -/
def decode (w : Word) : Except DecodeReject Instr := decodeFields (fields w)

/-- The 16-bit word of two bytes, the byte at the lower address first: big-endian (20_memory.md R61; log 1). PRESUMED by the
spec (D1). -/
def wordOfBytes (hi lo : Byte) : Word := BitVec.ofNat 16 (hi.toNat * 256 + lo.toNat)

/-- The byte of a word at the lower address (R61). -/
def hiByte (w : Word) : Byte := w.extractLsb' 8 8

/-- The byte of a word at the higher address (R61). -/
def loByte (w : Word) : Byte := w.extractLsb' 0 8

/-- The decoder on bytes: the instruction of the first two bytes and the bytes that are left (R90). -/
def decodeBytes : List Byte → Except DecodeReject (Instr × List Byte)
  | hi :: lo :: rest =>
    match decode (wordOfBytes hi lo) with
    | .ok i => .ok (i, rest)
    | .error e => .error e
  | _ => .error .truncated

/-- A word from its four digits `F`, `X`, `Y`, `N` (R92: `F * 4096 + X * 256 + Y * 16 + N = w`). -/
def wordXYN (f x y n : Fin 16) : Word := BitVec.ofNat 16 (f.val * 4096 + x.val * 256 + y.val * 16 + n.val)

/-- A word from `F`, `X` and the low byte `NN` (R91: `NN = Y * 16 + N`). -/
def wordXNN (f x : Fin 16) (nn : Byte) : Word := BitVec.ofNat 16 (f.val * 4096 + x.val * 256 + nn.toNat)

/-- A word from `F` and the low triple `NNN` (R92: `F * 4096 + NNN = w`). -/
def wordNNN (f : Fin 16) (nnn : Addr) : Word := BitVec.ofNat 16 (f.val * 4096 + nnn.toNat)

/-- The encoder: the one word of each instruction (R95, the patterns). -/
def encode : Instr → Word
  | .cls => 0x00E0
  | .ret => 0x00EE
  | .jp nnn => wordNNN 0x1 nnn
  | .call nnn => wordNNN 0x2 nnn
  | .seImm x nn => wordXNN 0x3 x nn
  | .sneImm x nn => wordXNN 0x4 x nn
  | .seReg x y => wordXYN 0x5 x y 0x0
  | .ldImm x nn => wordXNN 0x6 x nn
  | .addImm x nn => wordXNN 0x7 x nn
  | .ldReg x y => wordXYN 0x8 x y 0x0
  | .or x y => wordXYN 0x8 x y 0x1
  | .and x y => wordXYN 0x8 x y 0x2
  | .xor x y => wordXYN 0x8 x y 0x3
  | .addReg x y => wordXYN 0x8 x y 0x4
  | .sub x y => wordXYN 0x8 x y 0x5
  | .shr x y => wordXYN 0x8 x y 0x6
  | .subn x y => wordXYN 0x8 x y 0x7
  | .shl x y => wordXYN 0x8 x y 0xE
  | .sneReg x y => wordXYN 0x9 x y 0x0
  | .ldI nnn => wordNNN 0xA nnn
  | .jpV0 nnn => wordNNN 0xB nnn
  | .rnd x nn => wordXNN 0xC x nn
  | .drw x y n => wordXYN 0xD x y n
  | .skp x => wordXNN 0xE x 0x9E
  | .sknp x => wordXNN 0xE x 0xA1
  | .ldVxDt x => wordXNN 0xF x 0x07
  | .ldVxK x => wordXNN 0xF x 0x0A
  | .ldDtVx x => wordXNN 0xF x 0x15
  | .ldStVx x => wordXNN 0xF x 0x18
  | .addI x => wordXNN 0xF x 0x1E
  | .ldF x => wordXNN 0xF x 0x29
  | .ldB x => wordXNN 0xF x 0x33
  | .stRegs x => wordXNN 0xF x 0x55
  | .ldRegs x => wordXNN 0xF x 0x65

/-- The two bytes of a word in memory order (R61). -/
def bytesOfWord (w : Word) : List Byte := [hiByte w, loByte w]

/-- The bytes of an instruction in memory order (R90, R61). -/
def encodeBytes (i : Instr) : List Byte := bytesOfWord (encode i)

/-- One row of the opcode map of R95: its name, `match` and `mask`. -/
structure OpcodeRow where
  name : String
  pattern : Word
  mask : Word
  deriving DecidableEq, Repr

/-- R95: a word selects a row iff `w and mask = match`. -/
def OpcodeRow.selects (r : OpcodeRow) (w : Word) : Bool := w &&& r.mask = r.pattern

/-- The row of R95 that an instruction belongs to, as the table gives it. -/
def Instr.row : Instr → OpcodeRow
  | .cls => ⟨"CLS", 0x00E0, 0xFFFF⟩
  | .ret => ⟨"RET", 0x00EE, 0xFFFF⟩
  | .jp _ => ⟨"JP", 0x1000, 0xF000⟩
  | .call _ => ⟨"CALL", 0x2000, 0xF000⟩
  | .seImm _ _ => ⟨"SE_IMM", 0x3000, 0xF000⟩
  | .sneImm _ _ => ⟨"SNE_IMM", 0x4000, 0xF000⟩
  | .seReg _ _ => ⟨"SE_REG", 0x5000, 0xF00F⟩
  | .ldImm _ _ => ⟨"LD_IMM", 0x6000, 0xF000⟩
  | .addImm _ _ => ⟨"ADD_IMM", 0x7000, 0xF000⟩
  | .ldReg _ _ => ⟨"LD_REG", 0x8000, 0xF00F⟩
  | .or _ _ => ⟨"OR", 0x8001, 0xF00F⟩
  | .and _ _ => ⟨"AND", 0x8002, 0xF00F⟩
  | .xor _ _ => ⟨"XOR", 0x8003, 0xF00F⟩
  | .addReg _ _ => ⟨"ADD_REG", 0x8004, 0xF00F⟩
  | .sub _ _ => ⟨"SUB", 0x8005, 0xF00F⟩
  | .shr _ _ => ⟨"SHR", 0x8006, 0xF00F⟩
  | .subn _ _ => ⟨"SUBN", 0x8007, 0xF00F⟩
  | .shl _ _ => ⟨"SHL", 0x800E, 0xF00F⟩
  | .sneReg _ _ => ⟨"SNE_REG", 0x9000, 0xF00F⟩
  | .ldI _ => ⟨"LD_I", 0xA000, 0xF000⟩
  | .jpV0 _ => ⟨"JP_V0", 0xB000, 0xF000⟩
  | .rnd _ _ => ⟨"RND", 0xC000, 0xF000⟩
  | .drw _ _ _ => ⟨"DRW", 0xD000, 0xF000⟩
  | .skp _ => ⟨"SKP", 0xE09E, 0xF0FF⟩
  | .sknp _ => ⟨"SKNP", 0xE0A1, 0xF0FF⟩
  | .ldVxDt _ => ⟨"LD_VX_DT", 0xF007, 0xF0FF⟩
  | .ldVxK _ => ⟨"LD_VX_K", 0xF00A, 0xF0FF⟩
  | .ldDtVx _ => ⟨"LD_DT_VX", 0xF015, 0xF0FF⟩
  | .ldStVx _ => ⟨"LD_ST_VX", 0xF018, 0xF0FF⟩
  | .addI _ => ⟨"ADD_I", 0xF01E, 0xF0FF⟩
  | .ldF _ => ⟨"LD_F", 0xF029, 0xF0FF⟩
  | .ldB _ => ⟨"LD_B", 0xF033, 0xF0FF⟩
  | .stRegs _ => ⟨"ST_REGS", 0xF055, 0xF0FF⟩
  | .ldRegs _ => ⟨"LD_REGS", 0xF065, 0xF0FF⟩

/-- One instruction of each row, in the order of R95. -/
def rowSamples : List Instr :=
  [.cls, .ret, .jp 0, .call 0, .seImm 0 0, .sneImm 0 0, .seReg 0 0, .ldImm 0 0, .addImm 0 0] ++
  [.ldReg 0 0, .or 0 0, .and 0 0, .xor 0 0, .addReg 0 0, .sub 0 0, .shr 0 0, .subn 0 0, .shl 0 0] ++
  [.sneReg 0 0, .ldI 0, .jpV0 0, .rnd 0 0, .drw 0 0 0, .skp 0, .sknp 0] ++
  [.ldVxDt 0, .ldVxK 0, .ldDtVx 0, .ldStVx 0, .addI 0, .ldF 0, .ldB 0, .stRegs 0, .ldRegs 0]

/-- The opcode map: the 34 rows of R95. -/
def opcodeMap : List OpcodeRow := rowSamples.map Instr.row

/-- A word of a table row laid out in memory order. The table gives every row 16 bits, one word; a shorter `nbits` keeps the
low bits and leaves the rest 0 (log 23). -/
def tableWordBytes (nbits w : Nat) : List Byte := bytesOfWord (BitVec.ofNat 16 (w % 2 ^ nbits))

/-- The instruction the decoder reads from an opcode-table word. -/
def decodeTableWord (nbits w : Nat) : Option Instr :=
  match decodeBytes (tableWordBytes nbits w) with
  | .ok (i, _) => some i
  | .error _ => none

end Sys2Proof
end

