-- ==== Sys2Proof/Config.lean ====
section
/-! DEFINITION. What the spec leaves open (00_scope.md R3, 92_eei_decisions.md "Open parameters"): two free values without a
body (`RAND`, `KEYWAIT_PICK`), and three arguments of the model (`FONT`, `ALIAS_POLICY`, `REDRAW_RETURN`) with the default
the spec gives the hardware. -/

namespace Sys2Proof

/-- Treatment of alias words (`ALIAS_POLICY`, 48_unassigned.md R231, D4). -/
inductive AliasPolicy where
  /-- every unassigned word is a no-op: the hardware -/
  | noop
  /-- the alias words of R97 have no meaning: the stricter model -/
  | refuse
  deriving DecidableEq, Repr

/-- What `Step` returns on a step that did not draw (`REDRAW_RETURN`, 10_state.md R45, D12). -/
inductive RedrawReturn where
  /-- the value of `DIRTY` at the end of the step: the default -/
  | level
  /-- 0 -/
  | pulse
  deriving DecidableEq, Repr

/-- The bytes of glyphs 1 to F (`FONT`, R3, 20_memory.md R68, D13; log 13), in order of address from 0x055 on. Glyph 0 is no
part of it: the source gives its bytes. -/
abbrev Font := Fin 75 → Byte

/-- The three arguments of R3 that a machine is built with. -/
structure Params where
  /-- `FONT` -/
  font : Font
  /-- `ALIAS_POLICY` -/
  aliasPolicy : AliasPolicy
  /-- `REDRAW_RETURN` -/
  redrawReturn : RedrawReturn

/-- FREE VALUE. The byte of the `n`-th random draw (`RAND`, R172, D11; log 11): any byte at each draw, bound by no law. -/
opaque Config.rand : Nat → Byte

/-- FREE VALUE. The choice behind `KEYWAIT_PICK` (R201, D7; log 7): for each state of the sixteen keys a number, which the
meaning of FX0A reduces to a position in the list of pressed keys. -/
opaque Config.keywaitChoice : Vector Bool 16 → Nat

/-- The policy of hardware built to the spec (R231, D4; log 4). DESIGN CHOICE of the spec. -/
def Config.aliasPolicy : AliasPolicy := .noop

/-- The default of the spec (R45, D12; log 12). DESIGN CHOICE of the spec. -/
def Config.redrawReturn : RedrawReturn := .level

end Sys2Proof
end

