-- ==== Sys2Proof/Machine/State.lean ====
section
/-! DEFINITION. The state of the machine (10_state.md section 1), why a step can stop, and the state after reset (R33). -/

namespace Sys2Proof.Machine

/-- `STATUS` (R31). -/
inductive Status where
  | running
  | faulted
  deriving DecidableEq, Repr

/-- The six faults of 60_exceptions.md R241. The spec describes what raising one does to the state (R243), so every
instruction and the fetch TAKE it as a next state (`State.raise`); no step of this model answers `Outcome.fault`. Log 9. -/
inductive Fault where
  /-- 2NNN with `SP = 16` (R244). Raised by `execCall`. Demanded by the source; its form is the spec's decision D9 (unsafe). -/
  | stackOverflow
  /-- 00EE with `SP = 0` (R245). Raised by `execRet`. Demanded by the source; its form is D9 (unsafe). -/
  | stackUnderflow
  /-- `PC` odd at the fetch (R246, D3). Raised by `fetch`. The spec's decision (unsafe). -/
  | fetchMisaligned
  /-- `PC` even and at least 4096 at the fetch (R246, D2). Raised by `fetch`. The spec's decision (unsafe). -/
  | fetchBounds
  /-- A data range that passes address 4095 (R247, D2). Raised by `execDrw`, `execLdB`, `execStRegs`, `execLdRegs`. The
  spec's decision (unsafe). -/
  | dataBounds
  /-- A key index above 15 (R248, D8). Raised by `execSkp`, `execSknp`. The spec's decision (unsafe). -/
  | keyIndexRange
  deriving DecidableEq, Repr

/-- Why the model gives something no meaning. -/
inductive Refusal where
  /-- An instruction without a meaning yet; raised by `exec` only (no arm does). Safe. -/
  | notModelled (mnemonic : String)
  /-- An alias word under the policy `refuse` (R231); raised by `execUnassigned`. Safe. The hardware's policy is `noop`, under
  which nothing raises it. -/
  | aliasWord (word : Word)
  /-- A `Load` on a machine that is not fresh (R286: "a model refuses it"); raised by `perform`. Safe. -/
  | loadOutsideReset
  deriving DecidableEq, Repr

/-- The bytes of `MEM` that differ from its reset contents, as (address, byte) pairs in rising order of address
(Machine/Memory.lean; log 19). -/
abbrev Memory := List Host.Cell

/-- The frame buffer `FB` (R27): 32 rows of 64 pixels, `true` for set. -/
abbrev FrameBuffer := Vector (Vector Bool 64) 32

/-- Every piece of state of 10_state.md section 1, and one field of the model's own (`draws`). -/
structure State where
  /-- `V[0..15]` (R20) -/
  v : Vector Byte 16
  /-- `I` (R24) -/
  i : Word
  /-- `PC` (R40) -/
  pc : Word
  /-- `SP`, the number of call-stack entries in use, 0 to 16 (R25) -/
  sp : Fin 17
  /-- `STK[0..15]` (R25) -/
  stk : Vector Word 16
  /-- `DT` (R26) -/
  dt : Byte
  /-- `ST` (R26) -/
  st : Byte
  /-- `MEM[0..4095]` (R30) -/
  mem : Memory
  /-- `FB[0..31][0..63]` (R27) -/
  fb : FrameBuffer
  /-- `DIRTY` (R28) -/
  dirty : Bool
  /-- `KEY[0..15]` (R29) -/
  keys : Vector Bool 16
  /-- `STATUS` (R31) -/
  status : Status
  /-- `FCAUSE` (R31, R241) -/
  fcause : BitVec 3
  /-- `FINFO` (R31, R241) -/
  finfo : Word
  /-- THE MODEL'S OWN: how many random bytes CXNN has drawn; the next one is `Config.rand draws` (log 11) -/
  draws : Nat
  deriving DecidableEq, Repr

/-- The reset value of `PC` (`LOAD_BASE`, R3, R33, R281). -/
def loadBase : Nat := 512

/-- The state after `Reset` (R33, R280). `PC` and memory are the source's; the zeros are the spec's decision D10 (log 10);
`draws` is a DESIGN CHOICE of the model (log 11). The font is the default of `FONT`; `State.resetWith` (Machine/Memory.lean) takes
any (log 13). -/
def State.reset : State where
  v := Vector.replicate 16 0
  i := 0
  pc := BitVec.ofNat 16 loadBase
  sp := 0
  stk := Vector.replicate 16 0
  dt := 0
  st := 0
  mem := []
  fb := Vector.replicate 32 (Vector.replicate 64 false)
  dirty := false
  keys := Vector.replicate 16 false
  status := .running
  fcause := 0
  finfo := 0
  draws := 0

/-- What one instruction, or one step, answers. -/
abbrev Result := Host.Outcome State Fault Refusal

end Sys2Proof.Machine
end

