-- ==== Sys2Proof/Machine/Memory.lean ====
section
/-! DEFINITION. The memory array (20_memory.md R60 to R69): its reset contents, one byte read, one byte written, and runs of
bytes. -/

namespace Sys2Proof.Machine

/-- `MEM_SIZE` (R3, R60). -/
def memSize : Nat := 4096

/-- `FONT_BASE` (R3). -/
def fontBase : Nat := 0x50

/-- `GLYPH_BYTES` (R3). -/
def glyphBytes : Nat := 5

/-- The five bytes of glyph 0, the source's (R68). -/
def glyphZero : List Byte := [0xF0, 0x90, 0x90, 0x90, 0xF0]

/-- The default bytes of glyphs 1 to F (R68, D13; log 13). PRESUMED by the spec. -/
def defaultGlyph : Nat → List Byte
  | 0x1 => [0x20, 0x60, 0x20, 0x20, 0x70]
  | 0x2 => [0xF0, 0x10, 0xF0, 0x80, 0xF0]
  | 0x3 => [0xF0, 0x10, 0xF0, 0x10, 0xF0]
  | 0x4 => [0x90, 0x90, 0xF0, 0x10, 0x10]
  | 0x5 => [0xF0, 0x80, 0xF0, 0x10, 0xF0]
  | 0x6 => [0xF0, 0x80, 0xF0, 0x90, 0xF0]
  | 0x7 => [0xF0, 0x10, 0x20, 0x40, 0x40]
  | 0x8 => [0xF0, 0x90, 0xF0, 0x90, 0xF0]
  | 0x9 => [0xF0, 0x90, 0xF0, 0x10, 0xF0]
  | 0xA => [0xF0, 0x90, 0xF0, 0x90, 0x90]
  | 0xB => [0xE0, 0x90, 0xE0, 0x90, 0xE0]
  | 0xC => [0xF0, 0x80, 0x80, 0x80, 0xF0]
  | 0xD => [0xE0, 0x90, 0x90, 0x90, 0xE0]
  | 0xE => [0xF0, 0x80, 0xF0, 0x80, 0xF0]
  | 0xF => [0xF0, 0x80, 0xF0, 0x80, 0x80]
  | _ => []

/-- The default of `FONT` (R3, R68). -/
def defaultFont : Font := fun k => (defaultGlyph (k.val / glyphBytes + 1)).getD (k.val % glyphBytes) 0

/-- What the byte at address `a` holds after `Reset` of a machine with the font `f` (R33, R67): the font at 0x050 to 0x09F, zero
elsewhere. -/
def resetByteWith (f : Font) (a : Nat) : Byte :=
  if a < 80 then 0
  else if a < 85 then glyphZero.getD (a - 80) 0
  else if h : a < 160 then f ⟨a - 85, by omega⟩
  else 0

/-- The reset contents with the default font: THE value an unlisted address reads as (log 19). -/
def resetByte (a : Nat) : Byte := resetByteWith defaultFont a

/-- The byte at address `a`: the listed one, or the reset contents. The bound 4095 is checked by those who call it (R63). -/
def Memory.read : Memory → Nat → Byte
  | [], a => resetByte a
  | (b, v) :: m, a => if b = a then v else Memory.read m a

/-- `MEM[a] <- v` on the canonical list (R64): the entries stay in rising order, and an address that holds its reset contents
has no entry. -/
def Memory.write : Memory → Nat → Byte → Memory
  | [], a, v => if v = resetByte a then [] else [(a, v)]
  | (b, w) :: m, a, v =>
    if a < b then (if v = resetByte a then (b, w) :: m else (a, v) :: (b, w) :: m)
    else if a = b then (if v = resetByte a then m else (a, v) :: m)
    else (b, w) :: Memory.write m a v

/-- Every entry from address `low` on, in strictly rising order, inside the 4096 bytes, none equal to the reset contents. -/
def Memory.wfFrom : Nat → Memory → Bool
  | _, [] => true
  | low, (a, v) :: m => decide (low ≤ a) && decide (a < memSize) && decide (v ≠ resetByte a) && Memory.wfFrom (a + 1) m

/-- The canonical form of memory: equal memories are equal lists. -/
def Memory.wf (m : Memory) : Bool := Memory.wfFrom 0 m

/-- The `n` bytes from address `a` on. -/
def Memory.readBytes (m : Memory) (a : Nat) : Nat → List Byte
  | 0 => []
  | n + 1 => Memory.read m a :: Memory.readBytes m (a + 1) n

/-- The bytes stored one after the other from address `a` on. -/
def Memory.writeBytes (m : Memory) (a : Nat) : List Byte → Memory
  | [] => m
  | b :: bs => Memory.writeBytes (Memory.write m a b) (a + 1) bs

/-- The reset contents of a machine with the font `f` (R33): the bytes in which it differs from the default are listed. -/
def fontMemory (f : Font) : Memory := Memory.writeBytes [] 85 ((List.finRange 75).map f)

/-- The state after `Reset` of a machine built with the font `f` (R3, R33, R280). With the default font it is `State.reset`
(Laws/Memory.lean). -/
def State.resetWith (f : Font) : State := { State.reset with mem := fontMemory f }

end Sys2Proof.Machine
end

