-- ==== Sys2Proof/Machine/Ops.lean ====
section
/-! DEFINITION. The operations every meaning is built from: registers, the program counter (R42), the call stack (R25), memory
accesses and their bounds (R62 to R65), taking a fault (R243). -/

namespace Sys2Proof.Machine

/-- `V[k]` (R20). -/
def State.reg (s : State) (k : Reg) : Byte := s.v[k]

/-- `V[k] <- b`. No register is hardwired (R20). -/
def State.setReg (s : State) (k : Reg) (b : Byte) : State := { s with v := s.v.set k b }

/-- `V[0] .. V[n-1] <- ` the bytes, for those registers the list reaches (the loop of R208). -/
def State.setRegs (s : State) (bytes : List Byte) : State :=
  { s with v := Vector.ofFn fun k : Fin 16 => bytes.getD k.val (s.reg k) }

/-- `V[0], …, V[x]` in order (the loop of R207). -/
def State.regsUpTo (s : State) (x : Reg) : List Byte := (s.v.toList).take (x.val + 1)

/-- `I <- w` (R24). -/
def State.setIndex (s : State) (w : Word) : State := { s with i := w }

/-- `pc <- w` (R40). -/
def State.setPc (s : State) (w : Word) : State := { s with pc := w }

/-- The default advance: `(PC + 2) mod 65536` (R42). -/
def State.advance (s : State) : State := s.setPc (s.pc + 2)

/-- A skip taken is `(PC + 4) mod 65536`, else the default advance (R42). -/
def State.skipIf (s : State) (c : Bool) : State := if c then s.setPc (s.pc + 4) else s.advance

/-- `DT <- b` (R26). -/
def State.setDt (s : State) (b : Byte) : State := { s with dt := b }

/-- `ST <- b` (R26). -/
def State.setSt (s : State) (b : Byte) : State := { s with st := b }

/-- `FB <- f` and `DIRTY <- 1` (R28: whether or not a pixel changed). -/
def State.present (s : State) (f : FrameBuffer) : State := { s with fb := f, dirty := true }

/-- Push (R25): `STK[SP] <- w; SP <- SP + 1`; none when `SP = 16`. -/
def State.push? (s : State) (w : Word) : Option State :=
  if h : s.sp.val < 16 then some { s with stk := s.stk.set s.sp.val w, sp := ⟨s.sp.val + 1, by omega⟩ } else none

/-- Pop (R25): `SP <- SP - 1`, and the slot now at `SP`, which keeps its value; none when `SP = 0`. -/
def State.pop? (s : State) : Option (Word × State) :=
  if h : 0 < s.sp.val then
    some (s.stk[s.sp.val - 1]'(by omega), { s with sp := ⟨s.sp.val - 1, by omega⟩ })
  else none

/-- The cause code of a fault, the value of `FCAUSE` (R241). -/
def Fault.code : Fault → BitVec 3
  | .stackOverflow => 1
  | .stackUnderflow => 2
  | .fetchMisaligned => 3
  | .fetchBounds => 4
  | .dataBounds => 5
  | .keyIndexRange => 6

/-- `raise <Fault>(info)` (R243): `STATUS`, `FCAUSE`, `FINFO`, and nothing else. There is no handler and no return
(R240, R251). Log 9. -/
def State.raise (s : State) (f : Fault) (info : Nat) : State :=
  { s with status := .faulted, fcause := f.code, finfo := BitVec.ofNat 16 info }

/-- The lowest address above 4095 among the `n` bytes from `base` on, if there is one (R65): `max base 4096`. -/
def boundsFault (base n : Nat) : Option Nat :=
  if n ≠ 0 ∧ base + n - 1 > 4095 then some (max base 4096) else none

/-- The bounds check of an instruction that touches `n` bytes from `I` on, before any of its effects (R65): it takes
`DataBounds`, or it goes on. -/
def State.withRange (s : State) (n : Nat) (go : Result) : Result :=
  match boundsFault s.i.toNat n with
  | some a => .next (s.raise .dataBounds a)
  | none => go

/-- The byte at `a`, bounds already checked. -/
def State.byteAt (s : State) (a : Nat) : Byte := Memory.read s.mem a

/-- The `n` bytes from `a` on, bounds already checked. -/
def State.loadBytes (s : State) (a n : Nat) : List Byte := Memory.readBytes s.mem a n

/-- Bytes stored from `a` on, bounds already checked. -/
def State.storeBytes (s : State) (a : Nat) (bytes : List Byte) : State := { s with mem := Memory.writeBytes s.mem a bytes }

/-- A fault and its information value, before it is taken. -/
abbrev FaultInfo := Fault × Nat

/-- `MemRead(addr, 1)` (R63). -/
def State.memRead (s : State) (a : Nat) : Except FaultInfo Byte :=
  if a ≤ 4095 then .ok (s.byteAt a) else .error (.dataBounds, a)

/-- `MemWrite(addr, 1, v)` (R64). -/
def State.memWrite (s : State) (a : Nat) (v : Byte) : Except FaultInfo State :=
  if a ≤ 4095 then .ok (s.storeBytes a [v]) else .error (.dataBounds, a)

/-- The loop `for i: MemWrite(base + i, 1, bytes[i])` of the pseudocode of R206 and R207. -/
def State.memWriteSeq (s : State) (a : Nat) : List Byte → Except FaultInfo State
  | [] => .ok s
  | b :: bs =>
    match s.memWrite a b with
    | .ok t => t.memWriteSeq (a + 1) bs
    | .error e => .error e

/-- `Fetch(PC)` (R62): misaligned, then out of bounds, then the big-endian word (R61). -/
def fetch (s : State) : Except FaultInfo Word :=
  let pc := s.pc.toNat
  if pc % 2 = 1 then .error (.fetchMisaligned, pc)
  else if pc + 1 > 4095 then .error (.fetchBounds, pc)
  else .ok (wordOfBytes (s.byteAt pc) (s.byteAt (pc + 1)))

/-- Result then flag: `V[X] <- r`, then `V[15] <- f` (8XY4; R23, log 5). -/
def State.resultThenFlag (s : State) (x : Reg) (r f : Byte) : State := (s.setReg x r).setReg flagReg f

/-- Flag then result: `V[15] <- f`, then `V[X] <- r` (8XY5, 8XY6, 8XY7, 8XYE; R23, log 5). -/
def State.flagThenResult (s : State) (x : Reg) (r f : Byte) : State := (s.setReg flagReg f).setReg x r

end Sys2Proof.Machine
end

