-- ==== Sys2Proof/Machine/Operands.lean ====
section
/-! DEFINITION. The operand forms of 30_encoding.md R93 that are more than a register or an immediate: addresses, glyph
addresses, decimal digits, key indices, the pressed keys. Nothing is sign-extended, scaled or shifted. -/

namespace Sys2Proof.Machine

/-- `NNN` zero-extended to 16 bits, an absolute byte address (R93). -/
def addrWord (nnn : Addr) : Word := nnn.setWidth 16

/-- A byte zero-extended to 16 bits (`zext_16`). -/
def byteWord (b : Byte) : Word := b.setWidth 16

/-- The target of BNNN: `NNN + V[0]` (R171), never masked to 12 bits. -/
def State.indexedTarget (s : State) (nnn : Addr) : Word := addrWord nnn + byteWord (s.reg 0)

/-- The register count of FX55 and FX65: `X + 1` (R93). -/
def regCount (x : Reg) : Nat := x.val + 1

/-- `0x50 + 5 * V[X]` (R205), the value of the register not masked. -/
def glyphAddress (b : Byte) : Word := BitVec.ofNat 16 (fontBase + glyphBytes * b.toNat)

/-- Hundreds, tens and units of a byte (R206). -/
def bcdDigits (b : Byte) : List Byte :=
  [BitVec.ofNat 8 (b.toNat / 100), BitVec.ofNat 8 (b.toNat / 10 % 10), BitVec.ofNat 8 (b.toNat % 10)]

/-- The key a byte names: 0 to 15; none above (R190, D8; log 8). -/
def keyIndex (b : Byte) : Option Key := if h : b.toNat < 16 then some ⟨b.toNat, h⟩ else none

/-- `KEY[k]` (R29). -/
def State.key (s : State) (k : Key) : Bool := s.keys[k]

/-- The pressed keys in rising order: the set `P` of R201. -/
def pressedKeys (keys : Vector Bool 16) : List Key := (List.finRange 16).filter fun k => keys[k]

/-- `KEYWAIT_PICK` (R201): none when no key is pressed; the key when there is one; with several, a free one of them (D7,
log 7). -/
def pickKey (keys : Vector Bool 16) : Option Key :=
  match pressedKeys keys with
  | [] => none
  | [k] => some k
  | k :: l => some ((k :: l).getD (Config.keywaitChoice keys % (k :: l).length) k)

/-- A key index as a register value. -/
def keyByte (k : Key) : Byte := BitVec.ofNat 8 k.val

end Sys2Proof.Machine
end

