-- ==== Sys2Proof/Machine/Flags.lean ====
section
/-! DEFINITION. The flag outcomes of 10_state.md R22: each is written as 0 or 1 into all 8 bits of `V[15]` (R21). -/

namespace Sys2Proof.Machine

/-- 1 if the condition holds, else 0. -/
def flagByte (c : Bool) : Byte := if c then 1 else 0

/-- 8XY4: 1 if the unwrapped sum exceeds 255 (R154). -/
def carryFlag (a b : Byte) : Byte := flagByte (decide (a.toNat + b.toNat > 255))

/-- 8XY5 and 8XY7: 1 if the first operand is at least the second, both before the subtraction (R155, R157). -/
def noBorrowFlag (a b : Byte) : Byte := flagByte (decide (a.toNat ≥ b.toNat))

/-- 8XY6: bit 0 of the old `V[X]` (R156). -/
def lowBitFlag (a : Byte) : Byte := flagByte (a.getLsbD 0)

/-- 8XYE: bit 7 of the old `V[X]` (R158). -/
def highBitFlag (a : Byte) : Byte := flagByte (a.getLsbD 7)

/-- DXYN: 1 if any pixel went from set to unset (R180). -/
def collisionFlag (hit : Bool) : Byte := flagByte hit

end Sys2Proof.Machine
end

