-- ==== Sys2Proof/Machine/Alu.lean ====
section
/-! DEFINITION. Family 8 (43_alu_8.md): register-to-register operations. All operands are read before any write, and the later
write to register 15 remains (R23, R160; log 5). -/

namespace Sys2Proof.Machine

/-- 8XY0 (R150). -/
def execLdReg (x y : Reg) (s : State) : Result := .next (s.setReg x (s.reg y)).advance

/-- 8XY1 (R151): no flag. -/
def execOr (x y : Reg) (s : State) : Result := .next (s.setReg x (s.reg x ||| s.reg y)).advance

/-- 8XY2 (R152): no flag. -/
def execAnd (x y : Reg) (s : State) : Result := .next (s.setReg x (s.reg x &&& s.reg y)).advance

/-- 8XY3 (R153): no flag. -/
def execXor (x y : Reg) (s : State) : Result := .next (s.setReg x (s.reg x ^^^ s.reg y)).advance

/-- 8XY4 (R154): the sum, then the carry. -/
def execAddReg (x y : Reg) (s : State) : Result :=
  .next (s.resultThenFlag x (s.reg x + s.reg y) (carryFlag (s.reg x) (s.reg y))).advance

/-- 8XY5 (R155): the no-borrow flag, then `V[X] - V[Y]`. -/
def execSub (x y : Reg) (s : State) : Result :=
  .next (s.flagThenResult x (s.reg x - s.reg y) (noBorrowFlag (s.reg x) (s.reg y))).advance

/-- 8XY6 (R156): bit 0 of the OLD `V[X]`, then `V[Y] >> 1`. -/
def execShr (x y : Reg) (s : State) : Result :=
  .next (s.flagThenResult x (s.reg y >>> 1) (lowBitFlag (s.reg x))).advance

/-- 8XY7 (R157): the no-borrow flag, then `V[Y] - V[X]`. -/
def execSubn (x y : Reg) (s : State) : Result :=
  .next (s.flagThenResult x (s.reg y - s.reg x) (noBorrowFlag (s.reg y) (s.reg x))).advance

/-- 8XYE (R158): bit 7 of the OLD `V[X]`, then `V[Y] << 1`. -/
def execShl (x y : Reg) (s : State) : Result :=
  .next (s.flagThenResult x (s.reg y <<< 1) (highBitFlag (s.reg x))).advance

end Sys2Proof.Machine
end

