-- ==== Sys2Proof/Machine/Const.lean ====
section
/-! DEFINITION. Families 6, 7 (42_const_6_7.md): load immediate, add immediate. -/

namespace Sys2Proof.Machine

/-- 6XNN (R140). -/
def execLdImm (x : Reg) (nn : Byte) (s : State) : Result := .next (s.setReg x nn).advance

/-- 7XNN (R141): wraps modulo 256, no flag. -/
def execAddImm (x : Reg) (nn : Byte) (s : State) : Result := .next (s.setReg x (s.reg x + nn)).advance

end Sys2Proof.Machine
end

