-- ==== Sys2Proof/Machine/Draw.lean ====
section
/-! DEFINITION. Family D (45_draw_D.md): the frame-buffer writer, written as the loops of R180. -/

namespace Sys2Proof.Machine

/-- `FB[r][c]` (R27). -/
def pixel (fb : FrameBuffer) (r : Fin 32) (c : Fin 64) : Bool := fb[r][c]

/-- `FB[r][c] <- b`. -/
def setPixel (fb : FrameBuffer) (r : Fin 32) (c : Fin 64) (b : Bool) : FrameBuffer := fb.set r (fb[r].set c b)

/-- The inner body of R180: note a collision over a set pixel, then flip it. The pair is the buffer and the collision so far. -/
def flipPixel (p : FrameBuffer × Bool) (r : Fin 32) (c : Fin 64) : FrameBuffer × Bool :=
  (setPixel p.1 r c (!pixel p.1 r c), p.2 || pixel p.1 r c)

/-- Bit `col` of a sprite row, counted from the left: bit 7 is column 0 (R180, D6; log 6). PRESUMED by the spec. -/
def spriteBit (b : Byte) (col : Nat) : Bool := b.getLsbD (7 - col)

/-- One sprite row at buffer row `r`, from column `x0` on: the loop over `col`, columns modulo 64. -/
def drawRow (p : FrameBuffer × Bool) (x0 : Nat) (r : Fin 32) (b : Byte) : FrameBuffer × Bool :=
  (List.range 8).foldl (fun q col => if spriteBit b col then flipPixel q r (Fin.ofNat 64 (x0 + col)) else q) p

/-- The sprite rows from row `y0` on: the loop over `row`, rows modulo 32. -/
def drawRows (p : FrameBuffer × Bool) (x0 y0 : Nat) : List Byte → FrameBuffer × Bool
  | [] => p
  | b :: bs => drawRows (drawRow p x0 (Fin.ofNat 32 y0) b) x0 (y0 + 1) bs

/-- A whole sprite at `(vx, vy)`: position modulo 64 and 32, the flag reset at the start (R180). -/
def drawSprite (fb : FrameBuffer) (vx vy : Byte) (rows : List Byte) : FrameBuffer × Bool :=
  drawRows (fb, false) (vx.toNat % 64) (vy.toNat % 32) rows

/-- The sprite of DXYN: the `n` bytes from `I` on. -/
def State.spriteRows (s : State) (n : Fin 16) : List Byte := s.loadBytes s.i.toNat n.val

/-- What a draw leaves of the frame buffer, and whether it collided. -/
def State.drawn (s : State) (x y : Reg) (n : Fin 16) : FrameBuffer × Bool :=
  drawSprite s.fb (s.reg x) (s.reg y) (s.spriteRows n)

/-- DXYN (R180): `DataBounds` before any effect; else pixels, flag and `DIRTY`, the last always. -/
def execDrw (x y : Reg) (n : Fin 16) (s : State) : Result :=
  s.withRange n.val
    (.next ((s.setReg flagReg (collisionFlag (s.drawn x y n).2)).present (s.drawn x y n).1).advance)

end Sys2Proof.Machine
end

