-- ==== Sys2Proof/Machine/Flow.lean ====
section
/-! DEFINITION. Families 0, 1, 2 (40_flow_0_1_2.md): CLS, RET, JP, CALL. -/

namespace Sys2Proof.Machine

/-- The clear frame buffer. -/
def blankFrame : FrameBuffer := Vector.replicate 32 (Vector.replicate 64 false)

/-- 00E0 (R120). -/
def execCls (s : State) : Result := .next (s.present blankFrame).advance

/-- 00EE (R121): the instruction after the matching call; `StackUnderflow(PC)` when the stack is empty. -/
def execRet (s : State) : Result :=
  match s.pop? with
  | some (a, t) => .next (t.setPc (a + 2))
  | none => .next (s.raise .stackUnderflow s.pc.toNat)

/-- 1NNN (R122): the target is not checked. -/
def execJp (nnn : Addr) (s : State) : Result := .next (s.setPc (addrWord nnn))

/-- 2NNN (R123): pushes the address of this instruction; `StackOverflow(PC)` when 16 entries are in use. -/
def execCall (nnn : Addr) (s : State) : Result :=
  match s.push? s.pc with
  | some t => .next (t.setPc (addrWord nnn))
  | none => .next (s.raise .stackOverflow s.pc.toNat)

end Sys2Proof.Machine
end

