-- ==== Sys2Proof/Machine/Index.lean ====
section
/-! DEFINITION. Families A, B, C (44_index_jump_random_A_B_C.md): load index, indexed jump, random. -/

namespace Sys2Proof.Machine

/-- ANNN (R170). -/
def execLdI (nnn : Addr) (s : State) : Result := .next (s.setIndex (addrWord nnn)).advance

/-- BNNN (R171): register 0 always; the sum is not masked to 12 bits. -/
def execJpV0 (nnn : Addr) (s : State) : Result := .next (s.setPc (s.indexedTarget nnn))

/-- `draw RAND` (R172): the next free byte, and the state in which it has been drawn (log 11). -/
def State.drawRand (s : State) : Byte × State := (Config.rand s.draws, { s with draws := s.draws + 1 })

/-- CXNN (R172). -/
def execRnd (x : Reg) (nn : Byte) (s : State) : Result :=
  .next (s.drawRand.2.setReg x (s.drawRand.1 &&& nn)).advance

end Sys2Proof.Machine
end

