-- ==== Sys2Proof/Machine/Keys.lean ====
section
/-! DEFINITION. Family E (46_keys_E.md): skip on key state. -/

namespace Sys2Proof.Machine

/-- EX9E (R190): `KeyIndexRange(V[X])` above 15 (log 8). -/
def execSkp (x : Reg) (s : State) : Result :=
  match keyIndex (s.reg x) with
  | some k => .next (s.skipIf (s.key k))
  | none => .next (s.raise .keyIndexRange (s.reg x).toNat)

/-- EXA1 (R191): `KeyIndexRange(V[X])` above 15 (log 8). -/
def execSknp (x : Reg) (s : State) : Result :=
  match keyIndex (s.reg x) with
  | some k => .next (s.skipIf (!s.key k))
  | none => .next (s.raise .keyIndexRange (s.reg x).toNat)

end Sys2Proof.Machine
end

