-- ==== Sys2Proof/Machine/Misc.lean ====
section
/-! DEFINITION. Family F (47_misc_F.md): timers, key wait, index arithmetic, digits, block transfers. -/

namespace Sys2Proof.Machine

/-- FX07 (R200). -/
def execLdVxDt (x : Reg) (s : State) : Result := .next (s.setReg x s.dt).advance

/-- FX0A (R201): with no key pressed the step changes nothing, and the same instruction is next again. -/
def execLdVxK (x : Reg) (s : State) : Result :=
  match pickKey s.keys with
  | none => .next s
  | some k => .next (s.setReg x (keyByte k)).advance

/-- FX15 (R202). -/
def execLdDtVx (x : Reg) (s : State) : Result := .next (s.setDt (s.reg x)).advance

/-- FX18 (R203). -/
def execLdStVx (x : Reg) (s : State) : Result := .next (s.setSt (s.reg x)).advance

/-- FX1E (R204): wraps modulo 65536, no flag. -/
def execAddI (x : Reg) (s : State) : Result := .next (s.setIndex (s.i + byteWord (s.reg x))).advance

/-- FX29 (R205): no mask on the register's value. -/
def execLdF (x : Reg) (s : State) : Result := .next (s.setIndex (glyphAddress (s.reg x))).advance

/-- FX33 (R206): `I` is not changed. -/
def execLdB (x : Reg) (s : State) : Result :=
  s.withRange 3 (.next (s.storeBytes s.i.toNat (bcdDigits (s.reg x))).advance)

/-- The index after a block transfer: `(I + X + 1) mod 65536` (R207, R208). -/
def State.indexPast (s : State) (x : Reg) : Word := s.i + BitVec.ofNat 16 (regCount x)

/-- FX55 (R207): `V[0..X]` to memory, then `I` past the last byte. -/
def execStRegs (x : Reg) (s : State) : Result :=
  s.withRange (regCount x) (.next ((s.storeBytes s.i.toNat (s.regsUpTo x)).setIndex (s.indexPast x)).advance)

/-- FX65 (R208): memory to `V[0..X]`, then `I` past the last byte. -/
def execLdRegs (x : Reg) (s : State) : Result :=
  s.withRange (regCount x)
    (.next ((s.setRegs (s.loadBytes s.i.toNat (regCount x))).setIndex (s.indexPast x)).advance)

end Sys2Proof.Machine
end

