-- ==== Sys2Proof/Machine/Unassigned.lean ====
section
/-! DEFINITION. The words that select no instruction (48_unassigned.md). -/

namespace Sys2Proof.Machine

/-- An unassigned word (R230): the default advance and nothing else. Under the policy `refuse` an alias word has no meaning
(R231, log 4). -/
def execUnassigned (policy : AliasPolicy) (why : DecodeReject) (w : Word) (s : State) : Result :=
  match policy, why with
  | .refuse, .aliasWord => .refused (.aliasWord w)
  | _, _ => .next s.advance

end Sys2Proof.Machine
end

