-- ==== Sys2Proof/Machine/Step.lean ====
section
/-! DEFINITION. One step of the CPU (10_state.md R41), and placing an instruction where the next step fetches it. -/

namespace Sys2Proof.Machine

/-- `Step` under an alias policy (R41): nothing on a FAULTED machine (R46); the fetch or its fault (R62); the decoded
instruction, or the no-op of an unassigned word (R230). -/
def stepWith (policy : AliasPolicy) (s : State) : Result :=
  match s.status with
  | .faulted => .next s
  | .running =>
    match fetch s with
    | .error (f, info) => .next (s.raise f info)
    | .ok w =>
      match decode w with
      | .ok i => exec i s
      | .error why => execUnassigned policy why w s

/-- `Step` of the hardware (R41). -/
def step (s : State) : Host.Outcome State Fault Refusal := stepWith Config.aliasPolicy s

/-- The address the next step can fetch from: `PC` where it is even and at most 4094, else the load address (log 20). -/
def State.fetchPc (s : State) : Word :=
  if s.pc.toNat % 2 = 0 ∧ s.pc.toNat ≤ 4094 then s.pc else BitVec.ofNat 16 loadBase

/-- The state with an opcode-table word stored where the next step fetches it. A machine that could not fetch at all (FAULTED,
or `PC` odd or out of bounds) is also made able to (log 20). -/
def State.withFetchWord (s : State) (nbits w : Nat) : State :=
  { s with
    mem := Memory.writeBytes s.mem s.fetchPc.toNat (tableWordBytes nbits w)
    pc := s.fetchPc
    status := .running
    fcause := if s.status = .faulted then 0 else s.fcause
    finfo := if s.status = .faulted then 0 else s.finfo }

end Sys2Proof.Machine
end

