-- ==== Sys2Proof/Machine/Assembler.lean ====
section
/-! DEFINITION. From source lines in the syntax of 30_encoding.md R99 to bytes (the spec's own syntax, D17; log 22). -/

namespace Sys2Proof.Machine

/-- The bytes a line emits: two for an instruction or `DW`, one for `DB`. -/
def bodySize : AsmBody → Nat
  | .op _ _ => 2
  | .dw _ => 2
  | .db _ => 1

/-- The address a label names, the first line standing at `origin`: that of the line it is written on. DESIGN CHOICE of the model
(log 28): of a label written on several lines, which R99 does not speak of, the first line counts. -/
def labelAddress (label : String) : Nat → List AsmLine → Option Nat
  | _, [] => none
  | origin, l :: ls => if l.label = some label then some origin else labelAddress label (origin + bodySize l.body) ls

/-- The operands with every label replaced by its address; none if a label is not defined. -/
def resolve (address : String → Option Nat) : List AsmOperand → Option (List AsmOperand)
  | [] => some []
  | .sym l :: os => (address l).bind fun a => (resolve address os).map (.num a :: ·)
  | o :: os => (resolve address os).map (o :: ·)

/-- The bytes of one line (R99: `DW` emits a word, high byte first). -/
def bodyBytes (address : String → Option Nat) : AsmBody → Option (List Byte)
  | .op name operands => (resolve address operands).bind fun os => (readOp name os).map encodeBytes
  | .dw n => if n < 65536 then some (bytesOfWord (BitVec.ofNat 16 n)) else none
  | .db n => (byte? n).map fun b => [b]

/-- The bytes of lines one after the other; none if one is ill formed. -/
def linesBytes (address : String → Option Nat) : List AsmLine → Option (List Byte)
  | [] => some []
  | l :: ls => (bodyBytes address l.body).bind fun bs => (linesBytes address ls).map (bs ++ ·)

/-- A source program assembled at the load address 512. -/
def assemble (lines : List AsmLine) : Option (List Byte) := linesBytes (fun l => labelAddress l 512 lines) lines

end Sys2Proof.Machine
end

