-- ==== Sys2Proof/Machine/Operations.lean ====
section
/-! DEFINITION. The operations the block offers to its surroundings (00_scope.md R4 to R6): `Reset`, `Load`, `Step`, `Tick`,
`SetKey`, `ClearDirty`, `ReadFrame`, one at a time and in any order the caller chooses (log 15). -/

namespace Sys2Proof.Machine

/-- One timer in one `Tick`: down by one, never below 0 (60_exceptions.md R255). -/
def countDown (b : Byte) : Byte := if b.toNat > 0 then b - 1 else b

/-- `Tick` (R255): both timers, and nothing else. -/
def State.tick (s : State) : State := { s with dt := countDown s.dt, st := countDown s.st }

/-- `SetKey(k, b)` (R260). -/
def State.setKey (s : State) (k : Key) (b : Bool) : State := { s with keys := s.keys.set k b }

/-- `ClearDirty` (R263). -/
def State.clearDirty (s : State) : State := { s with dirty := false }

/-- How a pixel is presented: 0xFF or 0x00 (R27, R262). -/
def pixelByte (b : Bool) : Byte := if b then 0xFF else 0x00

/-- The grid `ReadFrame` gives (R262): 32 rows of 64 bytes. -/
def State.frame (s : State) : Vector (Vector Byte 64) 32 := s.fb.map fun row => row.map pixelByte

/-- `MAX_PROG` (R3): 4095 minus 512. -/
def maxProg : Nat := 3583

/-- `Load(prog)` (70_reset_and_hazards.md R283 to R285): the bytes from address 512 on; none when the program is too large, and
then nothing changes. -/
def State.load? (s : State) (prog : List Byte) : Option State :=
  if prog.length ≤ maxProg then some { s with mem := Memory.writeBytes s.mem loadBase prog } else none

/-- `Boot(prog)` (R286): `Load` on the state `Reset` produces. -/
def boot? (f : Font) (prog : List Byte) : Option State := (State.resetWith f).load? prog

/-- The arguments of hardware built to the spec: the default of each (R3). -/
def hardware : Params := ⟨defaultFont, Config.aliasPolicy, Config.redrawReturn⟩

/-- Where a machine stands in the loading protocol (R286, D18; log 16). The model's own record, outside the machine's state. -/
inductive Phase where
  /-- after `Reset`, before a `Load` that succeeded and before any `Step`, `Tick`, `SetKey`, `ClearDirty` -/
  | fresh
  /-- after a `Load` that succeeded -/
  | loaded
  /-- after any `Step`, `Tick`, `SetKey` or `ClearDirty` -/
  | started
  deriving DecidableEq, Repr

/-- One machine instance and where it stands in the loading protocol. -/
structure Session where
  machine : State
  phase : Phase
  deriving DecidableEq, Repr

/-- A machine just created (R280). -/
def Session.created (p : Params) : Session := ⟨State.resetWith p.font, .fresh⟩

/-- The operations of R4. -/
inductive Operation where
  | reset
  | load (prog : List Byte)
  | step
  | tick
  | setKey (k : Key) (b : Bool)
  | clearDirty
  | readFrame
  deriving DecidableEq, Repr

/-- What an operation hands back to its caller. -/
inductive Response where
  | done
  | loadOk
  /-- `LoadError(TooLarge)` (R285) -/
  | loadTooLarge
  /-- `redraw_needed` (R45) -/
  | redraw (needed : Bool)
  /-- the grid and `DIRTY` (R262) -/
  | frame (grid : Vector (Vector Byte 64) 32) (dirty : Bool)
  deriving DecidableEq, Repr

/-- The step from `s` executes 00E0 or DXYN to its end (R45). -/
def drew (s : State) : Bool :=
  match s.status with
  | .faulted => false
  | .running =>
    match fetch s with
    | .error _ => false
    | .ok w =>
      match decode w with
      | .ok .cls => true
      | .ok (.drw _ _ n) => (boundsFault s.i.toNat n.val).isNone
      | _ => false

/-- The bit `Step` returns, from the states before and after it (R45; log 12). -/
def redrawNeeded (mode : RedrawReturn) (s t : State) : Bool :=
  drew s || match mode with
    | .level => t.dirty
    | .pulse => false

/-- One operation on a machine built with the arguments `p` (R3, R4): atomic, so it is one function of the session. `Reset`
starts everything anew but the count of random draws, which must not repeat (R172; log 11). -/
def perform (p : Params) (op : Operation) (m : Session) : Host.Outcome (Session × Response) Fault Refusal :=
  match op with
  | .reset => .next (⟨{ State.resetWith p.font with draws := m.machine.draws }, .fresh⟩, .done)
  | .load prog =>
    match m.phase with
    | .fresh =>
      match m.machine.load? prog with
      | some s => .next (⟨s, .loaded⟩, .loadOk)
      | none => .next (m, .loadTooLarge)
    | _ => .refused .loadOutsideReset
  | .step =>
    match stepWith p.aliasPolicy m.machine with
    | .next t => .next (⟨t, .started⟩, .redraw (redrawNeeded p.redrawReturn m.machine t))
    | .fault f => .fault f
    | .refused r => .refused r
  | .tick => .next (⟨m.machine.tick, .started⟩, .done)
  | .setKey k b => .next (⟨m.machine.setKey k b, .started⟩, .done)
  | .clearDirty => .next (⟨m.machine.clearDirty, .started⟩, .done)
  | .readFrame => .next (m, .frame m.machine.frame m.machine.dirty)

/-- A schedule of operations, one after the other (R5): any list is a possible one. -/
def performAll (p : Params) : List Operation → Session → Host.Outcome Session Fault Refusal
  | [], m => .next m
  | op :: ops, m =>
    match perform p op m with
    | .next (m', _) => performAll p ops m'
    | .fault f => .fault f
    | .refused r => .refused r

end Sys2Proof.Machine
end

