-- ==== Sys2Proof/Safety.lean ====
section
/-! DEFINITION. What counts as a safe state and a safe run, the invariant of the machine, and the end of a run. -/

namespace Sys2Proof.Machine

/-- A safe state: not FAULTED ("a faulted state is never a successful end of a run", R46). -/
def State.Safe (s : State) : Prop := s.status = .running

/-- A safe schedule: it is refused nowhere, and the machine it leads to is not FAULTED. FAULTED is absorbing (R251), so the
machine was FAULTED nowhere on the way. -/
def SafeSchedule (p : Params) (ops : List Operation) (m : Session) : Prop := ∃ m', performAll p ops m = .next m' ∧ m'.machine.Safe

/-- What holds of every state a run reaches, and rules out the states none reaches (log 26). -/
structure Inv (s : State) : Prop where
  /-- memory is in its canonical form (R60) -/
  memory : Memory.wf s.mem = true
  /-- "the largest value any instruction can put in `PC` is 0x10FE (BNNN)" (R43) -/
  pcBound : s.pc.toNat ≤ 0x10FE
  /-- "every pushed value is an even address at most 4094" (R121) -/
  returns : ∀ j : Fin 16, j.val < s.sp.val → s.stk[j].toNat % 2 = 0 ∧ s.stk[j].toNat ≤ 4094
  /-- code 0 and information 0 while RUNNING (10_state.md section 5) -/
  runningStatus : s.status = .running → s.fcause = 0 ∧ s.finfo = 0
  /-- a code 1 to 6 when FAULTED (R241) -/
  faultedStatus : s.status = .faulted → 1 ≤ s.fcause.toNat ∧ s.fcause.toNat ≤ 6

/-- The instruction at `PC` is a jump to its own address: 1NNN with `NNN = PC`, or BNNN with `NNN + V[0] = PC` (R296). -/
def State.selfJump (s : State) : Bool :=
  match fetch s with
  | .error _ => false
  | .ok w =>
    match decode w with
    | .ok (.jp nnn) => decide (nnn.toNat = s.pc.toNat)
    | .ok (.jpV0 nnn) => decide (nnn.toNat + (s.reg 0).toNat = s.pc.toNat)
    | _ => false

/-- The instruction at `PC` is FX0A and no key is pressed: idle, not quiescent (R296). -/
def State.idleKeyWait (s : State) : Bool :=
  match fetch s with
  | .error _ => false
  | .ok w =>
    match decode w with
    | .ok (.ldVxK _) => (pressedKeys s.keys).isEmpty
    | _ => false

/-- An operation of an agent other than the CPU and the host (R5). -/
def Operation.external : Operation → Bool
  | .tick => true
  | .setKey _ _ => true
  | .clearDirty => true
  | .readFrame => true
  | .reset => false
  | .load _ => false
  | .step => false

/-- Quiescent (R296): RUNNING, a `Step` gives back the same state, and no operations of the other agents can end that
(D22; log 21). -/
def State.Quiescent (s : State) : Prop :=
  s.status = .running ∧
  ∀ (ops : List Operation) (p : Phase) (m : Session),
    (∀ op ∈ ops, op.external = true) → performAll hardware ops ⟨s, p⟩ = .next m → step m.machine = .next m.machine

end Sys2Proof.Machine
end

