-- ==== Sys2Proof/Certificates/Slice0/Obligations.lean ====
section
/-! DEFINITION. The statements for the provers. Each docstring names the rules of spec/ it formalises, and the log entries
(notes/assumptions) it rests on where the spec marks a decision of its own. -/

namespace Sys2Proof.Claim

open Sys2Proof.Machine

/-- The default advance: `(PC + 2) mod 65536` (R42). -/
def Advanced (s t : State) : Prop := t.pc.toNat = (s.pc.toNat + 2) % 65536

/-- The words that decode to `i` are exactly the one whose number is `n` (the encoding of R95, as a number). -/
def EncodedAs (i : Instr) (n : Nat) : Prop := ∀ w : Word, decode w = .ok i ↔ w.toNat = n

/-- Nothing but `PC` changed: no register, no byte of memory, no other field. -/
def PcFrame (s t : State) : Prop :=
  (∀ k, t.reg k = s.reg k) ∧ (∀ a, t.byteAt a = s.byteAt a) ∧ t = { s with pc := t.pc }

/-- Nothing but `PC` and the registers listed changed. -/
def RegFrame (regs : List Reg) (s t : State) : Prop :=
  (∀ k, k ∉ regs → t.reg k = s.reg k) ∧ (∀ a, t.byteAt a = s.byteAt a) ∧ t = { s with v := t.v, pc := t.pc }

/-- Nothing but `PC` and `I` changed. -/
def IndexFrame (s t : State) : Prop :=
  (∀ k, t.reg k = s.reg k) ∧ (∀ a, t.byteAt a = s.byteAt a) ∧ t = { s with i := t.i, pc := t.pc }

/-- A fault taken as R243 says: `STATUS`, `FCAUSE`, `FINFO`, and nothing else; no register, no byte, no pixel, no stack slot,
and `PC` is still the address of the faulting instruction. -/
def Raised (code info : Nat) (s t : State) : Prop :=
  t.status = .faulted ∧ t.fcause.toNat = code ∧ t.finfo.toNat = info % 65536 ∧
  t = { s with status := t.status, fcause := t.fcause, finfo := t.finfo }

/-- The pixels a draw selects (R180, R181): row `(V[Y] + row) mod 32`, column `(V[X] + col) mod 64`, where bit `7 - col` of the
sprite byte at `I + row` is 1. -/
def Selected (s : State) (x y : Reg) (n : Fin 16) (r : Fin 32) (c : Fin 64) : Prop :=
  ∃ row col : Nat, row < n.val ∧ col < 8 ∧ r.val = ((s.reg y).toNat + row) % 32 ∧ c.val = ((s.reg x).toNat + col) % 64 ∧
    (s.byteAt (s.i.toNat + row)).getLsbD (7 - col) = true

/-- The range `I` to `I + n - 1` lies in memory, or is empty (R65). -/
def InRange (s : State) (n : Nat) : Prop := n = 0 ∨ s.i.toNat + n ≤ 4096

/-- The registers an instruction may write (the table of 10_state.md R20): its destination, `V[0..X]` for FX65, and `V[15]` for
the six of R22. -/
def MayWriteReg : Instr → Reg → Prop
  | .ldImm x _, k => k = x
  | .addImm x _, k => k = x
  | .ldReg x _, k => k = x
  | .or x _, k => k = x
  | .and x _, k => k = x
  | .xor x _, k => k = x
  | .addReg x _, k => k = x ∨ k = 15
  | .sub x _, k => k = x ∨ k = 15
  | .shr x _, k => k = x ∨ k = 15
  | .subn x _, k => k = x ∨ k = 15
  | .shl x _, k => k = x ∨ k = 15
  | .rnd x _, k => k = x
  | .drw _ _ _, k => k = 15
  | .ldVxDt x, k => k = x
  | .ldVxK x, k => k = x
  | .ldRegs x, k => k ≤ x
  | _, _ => False

/-- The new `PC` of an instruction that did not fault (the table of R42), with the push of a call. -/
def PcAfter (i : Instr) (s t : State) : Prop :=
  let advance := fun n : Nat => t.pc.toNat = (s.pc.toNat + n) % 65536
  match i with
  | .jp nnn => t.pc.toNat = nnn.toNat
  | .call nnn => t.pc.toNat = nnn.toNat ∧ ∃ j : Fin 16, s.sp.val = j.val ∧ t.stk[j] = s.pc
  | .ret => ∃ j : Fin 16, s.sp.val = j.val + 1 ∧ t.pc.toNat = (s.stk[j].toNat + 2) % 65536
  | .jpV0 nnn => t.pc.toNat = nnn.toNat + (s.reg 0).toNat
  | .seImm x nn => advance (if s.reg x = nn then 4 else 2)
  | .sneImm x nn => advance (if s.reg x = nn then 2 else 4)
  | .seReg x y => advance (if s.reg x = s.reg y then 4 else 2)
  | .sneReg x y => advance (if s.reg x = s.reg y then 2 else 4)
  | .skp x => ∃ k : Key, (s.reg x).toNat = k.val ∧ advance (if s.keys[k] then 4 else 2)
  | .sknp x => ∃ k : Key, (s.reg x).toNat = k.val ∧ advance (if s.keys[k] then 2 else 4)
  | .ldVxK _ => ((∀ k : Key, s.keys[k] = false) → t.pc = s.pc) ∧ ((∃ k : Key, s.keys[k] = true) → advance 2)
  | _ => advance 2

/-- Where the word after `PC` comes from once `n` bytes with the values `new` have been stored from `I` on, wherever `I` is: each
of its two bytes is the stored one, or, outside the stored bytes, the one that was there. -/
def NextWordHolds (s t : State) (n : Nat) (new : Nat → Nat) : Prop :=
  ∃ w, fetch t = .ok w ∧
    (∀ k, k < n → s.i.toNat + k = s.pc.toNat + 2 → w.toNat / 256 = new k) ∧
    (∀ k, k < n → s.i.toNat + k = s.pc.toNat + 3 → w.toNat % 256 = new k) ∧
    (s.pc.toNat + 2 < s.i.toNat ∨ s.i.toNat + n ≤ s.pc.toNat + 2 → w.toNat / 256 = (s.byteAt (s.pc.toNat + 2)).toNat) ∧
    (s.pc.toNat + 3 < s.i.toNat ∨ s.i.toNat + n ≤ s.pc.toNat + 3 → w.toNat % 256 = (s.byteAt (s.pc.toNat + 3)).toNat)

/-- Hundreds, tens and units of a byte, by position (R206). -/
def decimalDigit (v k : Nat) : Nat := if k = 0 then v / 100 else if k = 1 then v / 10 % 10 else v % 10

/-- Two machines that differ at most in stack slots above the top (R25). -/
def SameButStaleSlots (s t : State) : Prop :=
  t = { s with stk := t.stk } ∧ ∀ j : Fin 16, j.val < s.sp.val → t.stk[j] = s.stk[j]

end Sys2Proof.Claim

open Sys2Proof Sys2Proof.Machine Sys2Proof.Claim

/-- Every instruction's word decodes to that instruction, at every value of every operand (30_encoding.md R91, R95). -/
def Obligations.DecodeEncodeRoundTrip : Prop := ∀ i : Instr, decode (encode i) = .ok i

/-- A word that decodes to an instruction is that instruction's only word: no bit is dropped (R92: the decoder is invertible;
R95: the patterns fix every other bit). -/
def Obligations.DecodedWordReencodes : Prop := ∀ (w : Word) (i : Instr), decode w = .ok i → encode i = w

/-- The nested decoder and the opcode map of R95 (34 rows of match and mask) agree: an instruction is decoded from exactly the
words its row selects, no word selects two rows, and a word that selects no row decodes to no instruction. -/
def Obligations.DecoderAgreesWithOpcodeMap : Prop :=
  (∀ (w : Word) (i : Instr), decode w = .ok i → i.row ∈ opcodeMap ∧ i.row.selects w = true ∧
    ∀ r ∈ opcodeMap, r.selects w = true → r = i.row) ∧
  (∀ w : Word, (∃ i, decode w = .ok i) ↔ ∃ r ∈ opcodeMap, r.selects w = true)

/-- R91: the six fields are the named slices of the word, as numbers; with R92's two ways to put the word together again, and
the source's example 0xD123. -/
def Obligations.FieldsAreSlicesOfTheWord : Prop :=
  (∀ w : Word,
    (fields w).f.toNat = w.toNat / 4096 ∧ (fields w).x.toNat = w.toNat / 256 % 16 ∧
    (fields w).y.toNat = w.toNat / 16 % 16 ∧ (fields w).n.toNat = w.toNat % 16 ∧
    (fields w).nn.toNat = (fields w).y.toNat * 16 + (fields w).n.toNat ∧
    (fields w).nnn.toNat = (fields w).x.toNat * 256 + (fields w).nn.toNat ∧
    (fields w).f.toNat * 4096 + (fields w).nnn.toNat = w.toNat ∧
    (fields w).f.toNat * 4096 + (fields w).x.toNat * 256 + (fields w).y.toNat * 16 + (fields w).n.toNat = w.toNat) ∧
  fields 0xD123 = ⟨0xD, 1, 2, 3, 0x23, 0x123⟩

/-- Nine words written out digit by digit from the patterns of R95 decode to the instructions they stand for; two words that
match no pattern are rejected, each by the name of its class. That 0x5121 matches no pattern, and both class names, are the
spec's decision D4 (log 4). -/
def Obligations.SampleWordsDecode : Prop :=
  decode 0x00E0 = .ok .cls ∧ decode 0x00EE = .ok .ret ∧ decode 0x1ABC = .ok (.jp 0xABC) ∧
  decode 0x3A7F = .ok (.seImm 0xA 0x7F) ∧ decode 0x8AB6 = .ok (.shr 0xA 0xB) ∧ decode 0x812E = .ok (.shl 1 2) ∧
  decode 0xD12F = .ok (.drw 1 2 0xF) ∧ decode 0xE59E = .ok (.skp 5) ∧ decode 0xF965 = .ok (.ldRegs 9) ∧
  decode 0x8128 = .error .unknownWord ∧ decode 0x5121 = .error .aliasWord

/-- The two classes of unassigned words, exactly as the table of R97 gives them, on the word as a number. Which digits select
is the spec's decision D4 (log 4). -/
def Obligations.UnassignedWordClasses : Prop := ∀ w : Word,
  (decode w = .error .aliasWord ↔
    (w.toNat / 4096 = 0 ∧ w.toNat % 16 ∈ [0x0, 0xE] ∧ w.toNat ≠ 0x00E0 ∧ w.toNat ≠ 0x00EE) ∨
    ((w.toNat / 4096 = 5 ∨ w.toNat / 4096 = 9) ∧ w.toNat % 16 ≠ 0) ∨
    (w.toNat / 4096 = 14 ∧ w.toNat % 16 ∈ [0xE, 0x1] ∧ w.toNat % 256 ∉ [0x9E, 0xA1]) ∨
    (w.toNat / 4096 = 15 ∧ w.toNat % 16 ∈ [0x3, 0x5, 0x7, 0x8, 0x9, 0xA, 0xE] ∧
      w.toNat % 256 ∉ [0x07, 0x0A, 0x15, 0x18, 0x1E, 0x29, 0x33, 0x55, 0x65])) ∧
  (decode w = .error .unknownWord ↔
    (w.toNat / 4096 = 0 ∧ w.toNat % 16 ∉ [0x0, 0xE]) ∨
    (w.toNat / 4096 = 8 ∧ w.toNat % 16 ∈ [0x8, 0x9, 0xA, 0xB, 0xC, 0xD, 0xF]) ∨
    (w.toNat / 4096 = 14 ∧ w.toNat % 16 ∉ [0xE, 0x1]) ∨
    (w.toNat / 4096 = 15 ∧ w.toNat % 16 ∈ [0x0, 0x1, 0x2, 0x4, 0x6, 0xB, 0xC, 0xD, 0xF])) ∧
  decode w ≠ .error .truncated

/-- A step runs the decoded instruction (R41): RUNNING, `PC` even and at most 4094, the two bytes at `PC` (high byte first, log
1) decode to `i`; nothing is added around `exec`, the instruction's rule includes the new `PC`. -/
def Obligations.StepRunsDecodedInstruction : Prop := ∀ (s : State) (i : Instr),
  s.status = .running → s.pc.toNat % 2 = 0 → s.pc.toNat ≤ 4094 → i.wf = true →
  decodeBytes [s.byteAt s.pc.toNat, s.byteAt (s.pc.toNat + 1)] = .ok (i, []) →
  step s = exec i s

/-- An unassigned word only advances `PC` (R230). That class A words are among them is the spec's decision D4 (log 4). -/
def Obligations.UnassignedWordIsNoOp : Prop := ∀ (s : State) (w : Word) (why : DecodeReject),
  s.status = .running → fetch s = .ok w → decode w = .error why →
  ∃ t, step s = .next t ∧ Advanced s t ∧ PcFrame s t

/-- The two fetch faults, in the order of R62 and R249: an odd `PC` (4095 included) is misaligned, an even one of 4096 or more is
out of bounds; nothing is decoded. The faults are the spec's decisions D2, D3, D9 (logs 2, 3, 9). -/
def Obligations.FetchFaultsComeFirst : Prop := ∀ s : State, s.status = .running →
  (s.pc.toNat % 2 = 1 → ∃ t, step s = .next t ∧ Raised 3 s.pc.toNat s t) ∧
  (s.pc.toNat % 2 = 0 → 4096 ≤ s.pc.toNat → ∃ t, step s = .next t ∧ Raised 4 s.pc.toNat s t)

/-- A FAULTED machine stays as it is under every schedule without `Reset` and `Load`: only what belongs to the other agents
(timers, keys, `DIRTY`) can change (R46, R251; the spec's decision D23, log 9). -/
def Obligations.FaultedMachineStaysFaulted : Prop := ∀ (hw : Params) (ops : List Operation) (m m' : Session),
  (∀ op ∈ ops, op ≠ .reset ∧ ∀ prog, op ≠ .load prog) → m.machine.status = .faulted → performAll hw ops m = .next m' →
  m'.machine = { m.machine with
    dt := m'.machine.dt, st := m'.machine.st, keys := m'.machine.keys, dirty := m'.machine.dirty }

/-- Every step has an outcome, and from a RUNNING state it is a RUNNING state or a FAULTED one with a cause 1 to 6 (R47, R241):
no instruction stops the model. The cause codes are the spec's decision D9 (log 9). -/
def Obligations.EveryStepHasANextState : Prop := ∀ s : State,
  ∃ t, step s = .next t ∧
    (s.status = .running → t.status = .running ∨ (t.status = .faulted ∧ 1 ≤ t.fcause.toNat ∧ t.fcause.toNat ≤ 6))

/-- Every step keeps the invariant `Inv` (Safety.lean): canonical memory, `PC` at most 0x10FE (R43), return addresses even and
at most 4094 (R121), legal fault status (10_state.md section 5). -/
def Obligations.StepKeepsInvariant : Prop := ∀ s t : State, Inv s → step s = .next t → Inv t

/-- The invariant holds after reset, with every font. -/
def Obligations.ResetMeetsInvariant : Prop := Inv State.reset ∧ ∀ f : Font, Inv (State.resetWith f)

/-- Every schedule of all the operations of R4, `Reset` and `Load` included, keeps the invariant, whatever arguments of R3 the
machine is built with. -/
def Obligations.OperationsKeepInvariant : Prop := ∀ (hw : Params) (ops : List Operation) (m m' : Session),
  Inv m.machine → performAll hw ops m = .next m' → Inv m'.machine

/-- What `Reset` leaves (R33, R280). `PC` and memory (font glyph 0, zero outside the font) are the source's; the 75 bytes of
glyphs 1 to F (R68) are the spec's decision D13 (log 13), the zeros of the other lines D10 (log 10), the fault status D9 (log
9). The `Reset` operation gives this state from any state, FAULTED included, with the font the machine was built with in place of
the default one; only the model's own count of random draws is kept (log 11). -/
def Obligations.ResetState : Prop :=
  State.reset.pc.toNat = 512 ∧
  (∀ a, a < 80 ∨ 160 ≤ a → State.reset.byteAt a = 0) ∧
  State.reset.loadBytes 80 5 = [0xF0, 0x90, 0x90, 0x90, 0xF0] ∧
  State.reset.loadBytes 85 25 =
    [0x20, 0x60, 0x20, 0x20, 0x70] ++ [0xF0, 0x10, 0xF0, 0x80, 0xF0] ++ [0xF0, 0x10, 0xF0, 0x10, 0xF0] ++
    [0x90, 0x90, 0xF0, 0x10, 0x10] ++ [0xF0, 0x80, 0xF0, 0x10, 0xF0] ∧
  State.reset.loadBytes 110 25 =
    [0xF0, 0x80, 0xF0, 0x90, 0xF0] ++ [0xF0, 0x10, 0x20, 0x40, 0x40] ++ [0xF0, 0x90, 0xF0, 0x90, 0xF0] ++
    [0xF0, 0x90, 0xF0, 0x10, 0xF0] ++ [0xF0, 0x90, 0xF0, 0x90, 0x90] ∧
  State.reset.loadBytes 135 25 =
    [0xE0, 0x90, 0xE0, 0x90, 0xE0] ++ [0xF0, 0x80, 0x80, 0x80, 0xF0] ++ [0xE0, 0x90, 0x90, 0x90, 0xE0] ++
    [0xF0, 0x80, 0xF0, 0x80, 0xF0] ++ [0xF0, 0x80, 0xF0, 0x80, 0x80] ∧
  (∀ k, State.reset.reg k = 0) ∧ State.reset.i = 0 ∧ State.reset.sp.val = 0 ∧ (∀ j : Fin 16, State.reset.stk[j] = 0) ∧
  State.reset.dt = 0 ∧ State.reset.st = 0 ∧ (∀ r c, pixel State.reset.fb r c = false) ∧ State.reset.dirty = false ∧
  (∀ k, State.reset.key k = false) ∧
  State.reset.status = .running ∧ State.reset.fcause = 0 ∧ State.reset.finfo = 0 ∧
  ∀ (hw : Params) (m : Session), ∃ m' r, perform hw .reset m = .next (m', r) ∧
    m'.machine = { State.resetWith hw.font with draws := m.machine.draws }

/-- 00E0 (R120): the word 0x00E0 and no other; all 2048 pixels unset, `DIRTY` set, nothing else but `PC`; the step returns
`redraw_needed = 1` in both modes. -/
def Obligations.ClsClearsEveryPixel : Prop := EncodedAs .cls 0x00E0 ∧ ∀ s : State,
  ∃ t, exec .cls s = .next t ∧ (∀ r c, pixel t.fb r c = false) ∧ t.dirty = true ∧ Advanced s t ∧
    (∀ k, t.reg k = s.reg k) ∧ (∀ a, t.byteAt a = s.byteAt a) ∧ t = { s with fb := t.fb, dirty := t.dirty, pc := t.pc } ∧
    (s.status = .running → fetch s = .ok 0x00E0 → step s = .next t ∧ ∀ mode, redrawNeeded mode s t = true)

/-- 00EE (R121): the popped address plus 2, the slot keeps its value; on an empty stack `StackUnderflow(PC)` (R245, in the form
of the spec's decision D9, log 9). The representation of the stack is D19 (log 17). -/
def Obligations.RetReturnsPastTheCall : Prop := ∀ s : State,
  (∀ j : Fin 16, s.sp.val = j.val + 1 →
    ∃ t, exec .ret s = .next t ∧ t.sp.val = j.val ∧ t.pc.toNat = (s.stk[j].toNat + 2) % 65536 ∧
      (∀ k, t.reg k = s.reg k) ∧ (∀ a, t.byteAt a = s.byteAt a) ∧ t = { s with sp := t.sp, pc := t.pc }) ∧
  (s.sp.val = 0 → ∃ t, exec .ret s = .next t ∧ Raised 2 s.pc.toNat s t)

/-- 1NNN and BNNN (R122, R171): the target as written, not checked, not masked to 12 bits; `V[0]` always, and unchanged. A jump
to its own address leaves the whole state as it was. -/
def Obligations.JumpsSetPc : Prop := ∀ (s : State) (nnn : Addr),
  (∃ t, exec (.jp nnn) s = .next t ∧ t.pc.toNat = nnn.toNat ∧ PcFrame s t ∧ (nnn.toNat = s.pc.toNat → t = s)) ∧
  (∃ t, exec (.jpV0 nnn) s = .next t ∧ t.pc.toNat = nnn.toNat + (s.reg 0).toNat ∧ PcFrame s t)

/-- 2NNN (R123): pushes the address of the call itself, then jumps; with 16 entries in use `StackOverflow(PC)` (R244, in the form
of the spec's decision D9, log 9). The representation of the stack is D19 (log 17). -/
def Obligations.CallPushesItsOwnAddress : Prop := ∀ (s : State) (nnn : Addr),
  (∀ j : Fin 16, s.sp.val = j.val →
    ∃ t, exec (.call nnn) s = .next t ∧ t.sp.val = j.val + 1 ∧ t.stk[j] = s.pc ∧ t.pc.toNat = nnn.toNat ∧
      (∀ k : Fin 16, k ≠ j → t.stk[k] = s.stk[k]) ∧
      (∀ k, t.reg k = s.reg k) ∧ (∀ a, t.byteAt a = s.byteAt a) ∧ t = { s with stk := t.stk, sp := t.sp, pc := t.pc }) ∧
  (s.sp.val = 16 → ∃ t, exec (.call nnn) s = .next t ∧ Raised 1 s.pc.toNat s t)

/-- A call and the return that matches it (R121, R123): from any state with the stack the call left, 00EE comes back to the
instruction after the call, and the stack is as deep as before it. -/
def Obligations.ReturnComesBackAfterTheCall : Prop := ∀ (s t u : State) (nnn : Addr),
  s.sp.val < 16 → exec (.call nnn) s = .next t → u.sp = t.sp → u.stk = t.stk →
  ∃ w, exec .ret u = .next w ∧ w.pc.toNat = (s.pc.toNat + 2) % 65536 ∧ w.sp = s.sp

/-- The four compare-and-skip instructions (R130 to R133): `PC` plus 4 when the condition holds, else plus 2; nothing else changes;
each with its encoding. -/
def Obligations.SkipsCompareUnsignedBytes : Prop := ∀ (s : State) (x y : Reg) (nn : Byte),
  (EncodedAs (.seImm x nn) (0x3000 + x.val * 256 + nn.toNat) ∧ ∃ t, exec (.seImm x nn) s = .next t ∧ PcFrame s t ∧
    t.pc.toNat = (s.pc.toNat + if (s.reg x).toNat = nn.toNat then 4 else 2) % 65536) ∧
  (EncodedAs (.sneImm x nn) (0x4000 + x.val * 256 + nn.toNat) ∧ ∃ t, exec (.sneImm x nn) s = .next t ∧ PcFrame s t ∧
    t.pc.toNat = (s.pc.toNat + if (s.reg x).toNat = nn.toNat then 2 else 4) % 65536) ∧
  (EncodedAs (.seReg x y) (0x5000 + x.val * 256 + y.val * 16) ∧ ∃ t, exec (.seReg x y) s = .next t ∧ PcFrame s t ∧
    t.pc.toNat = (s.pc.toNat + if (s.reg x).toNat = (s.reg y).toNat then 4 else 2) % 65536) ∧
  (EncodedAs (.sneReg x y) (0x9000 + x.val * 256 + y.val * 16) ∧ ∃ t, exec (.sneReg x y) s = .next t ∧ PcFrame s t ∧
    t.pc.toNat = (s.pc.toNat + if (s.reg x).toNat = (s.reg y).toNat then 2 else 4) % 65536)

/-- 6XNN and 7XNN (R140, R141): the immediate, or the sum modulo 256; no flag; each with its encoding. -/
def Obligations.ImmediateLoadAndAdd : Prop := ∀ (s : State) (x : Reg) (nn : Byte),
  (EncodedAs (.ldImm x nn) (0x6000 + x.val * 256 + nn.toNat) ∧
    ∃ t, exec (.ldImm x nn) s = .next t ∧ t.reg x = nn ∧ Advanced s t ∧ RegFrame [x] s t) ∧
  (EncodedAs (.addImm x nn) (0x7000 + x.val * 256 + nn.toNat) ∧ ∃ t, exec (.addImm x nn) s = .next t ∧ (t.reg x).toNat = ((s.reg x).toNat + nn.toNat) % 256 ∧ Advanced s t ∧
    RegFrame [x] s t)

/-- 8XY0 to 8XY3 (R150 to R153): the copy and the three bitwise operations; `V[15]` changes only as the destination; each
with its encoding. -/
def Obligations.CopyAndLogicLeaveTheFlag : Prop := ∀ (s : State) (x y : Reg),
  (EncodedAs (.ldReg x y) (0x8000 + x.val * 256 + y.val * 16) ∧
    ∃ t, exec (.ldReg x y) s = .next t ∧ t.reg x = s.reg y ∧ Advanced s t ∧ RegFrame [x] s t) ∧
  (EncodedAs (.or x y) (0x8001 + x.val * 256 + y.val * 16) ∧
    ∃ t, exec (.or x y) s = .next t ∧ (∀ b, (t.reg x).getLsbD b = ((s.reg x).getLsbD b || (s.reg y).getLsbD b)) ∧
    Advanced s t ∧ RegFrame [x] s t) ∧
  (EncodedAs (.and x y) (0x8002 + x.val * 256 + y.val * 16) ∧
    ∃ t, exec (.and x y) s = .next t ∧ (∀ b, (t.reg x).getLsbD b = ((s.reg x).getLsbD b && (s.reg y).getLsbD b)) ∧
    Advanced s t ∧ RegFrame [x] s t) ∧
  (EncodedAs (.xor x y) (0x8003 + x.val * 256 + y.val * 16) ∧
    ∃ t, exec (.xor x y) s = .next t ∧ (∀ b, (t.reg x).getLsbD b = ((s.reg x).getLsbD b ^^ (s.reg y).getLsbD b)) ∧
    Advanced s t ∧ RegFrame [x] s t)

/-- 8XY4 (R154): the sum modulo 256, then the carry; with `X = 15` the carry remains. The register-15 cases rest on the spec's
decision D5 (log 5). -/
def Obligations.AddSetsCarry : Prop := ∀ (s : State) (x y : Reg),
  ∃ t, exec (.addReg x y) s = .next t ∧
    (x ≠ 15 → (t.reg x).toNat = ((s.reg x).toNat + (s.reg y).toNat) % 256) ∧
    (t.reg 15).toNat = (if (s.reg x).toNat + (s.reg y).toNat > 255 then 1 else 0) ∧
    Advanced s t ∧ RegFrame [x, 15] s t

/-- 8XY5 and 8XY7 (R155, R157): the difference modulo 256, and 1 for no borrow (equal operands included) unless `X = 15`, where
the difference remains. The register-15 cases rest on the spec's decision D5 (log 5). -/
def Obligations.SubtractSetsNoBorrow : Prop := ∀ (s : State) (x y : Reg),
  (∃ t, exec (.sub x y) s = .next t ∧
    (t.reg x).toNat = ((s.reg x).toNat + 256 - (s.reg y).toNat) % 256 ∧
    (x ≠ 15 → (t.reg 15).toNat = if (s.reg x).toNat ≥ (s.reg y).toNat then 1 else 0) ∧
    Advanced s t ∧ RegFrame [x, 15] s t) ∧
  (∃ t, exec (.subn x y) s = .next t ∧
    (t.reg x).toNat = ((s.reg y).toNat + 256 - (s.reg x).toNat) % 256 ∧
    (x ≠ 15 → (t.reg 15).toNat = if (s.reg y).toNat ≥ (s.reg x).toNat then 1 else 0) ∧
    Advanced s t ∧ RegFrame [x, 15] s t)

/-- 8XY6 and 8XYE (R156, R158): the shifted value comes from `V[Y]`, the flag from the OLD `V[X]`, unless `X = 15`, where the
shifted value remains. The register-15 cases rest on the spec's decision D5 (log 5). -/
def Obligations.ShiftsTakeValueFromYFlagFromX : Prop := ∀ (s : State) (x y : Reg),
  (∃ t, exec (.shr x y) s = .next t ∧ (t.reg x).toNat = (s.reg y).toNat / 2 ∧
    (x ≠ 15 → (t.reg 15).toNat = (s.reg x).toNat % 2) ∧ Advanced s t ∧ RegFrame [x, 15] s t) ∧
  (∃ t, exec (.shl x y) s = .next t ∧ (t.reg x).toNat = (s.reg y).toNat * 2 % 256 ∧
    (x ≠ 15 → (t.reg 15).toNat = (s.reg x).toNat / 128) ∧ Advanced s t ∧ RegFrame [x, 15] s t)

/-- The table of R160 with `f` the old `V[15]`: the five flag-writing operations with register 15 as `X`, as `Y`, and as both.
The whole table is the spec's decision D5 (log 5). -/
def Obligations.Register15AsOperand : Prop := ∀ (s t : State) (z : Reg),
  let f := (s.reg 15).toNat
  let a := (s.reg z).toNat
  (exec (.addReg 15 z) s = .next t → (t.reg 15).toNat = if f + a > 255 then 1 else 0) ∧
  (exec (.addReg z 15) s = .next t → z ≠ 15 →
    (t.reg z).toNat = (a + f) % 256 ∧ (t.reg 15).toNat = if a + f > 255 then 1 else 0) ∧
  (exec (.addReg 15 15) s = .next t → (t.reg 15).toNat = if f ≥ 128 then 1 else 0) ∧
  (exec (.sub 15 z) s = .next t → (t.reg 15).toNat = (f + 256 - a) % 256) ∧
  (exec (.sub z 15) s = .next t → z ≠ 15 →
    (t.reg z).toNat = (a + 256 - f) % 256 ∧ (t.reg 15).toNat = if a ≥ f then 1 else 0) ∧
  (exec (.sub 15 15) s = .next t → (t.reg 15).toNat = 0) ∧
  (exec (.shr 15 z) s = .next t → (t.reg 15).toNat = a / 2) ∧
  (exec (.shr z 15) s = .next t → z ≠ 15 → (t.reg z).toNat = f / 2 ∧ (t.reg 15).toNat = a % 2) ∧
  (exec (.shr 15 15) s = .next t → (t.reg 15).toNat = f / 2) ∧
  (exec (.subn 15 z) s = .next t → (t.reg 15).toNat = (a + 256 - f) % 256) ∧
  (exec (.subn z 15) s = .next t → z ≠ 15 →
    (t.reg z).toNat = (f + 256 - a) % 256 ∧ (t.reg 15).toNat = if f ≥ a then 1 else 0) ∧
  (exec (.subn 15 15) s = .next t → (t.reg 15).toNat = 0) ∧
  (exec (.shl 15 z) s = .next t → (t.reg 15).toNat = a * 2 % 256) ∧
  (exec (.shl z 15) s = .next t → z ≠ 15 → (t.reg z).toNat = f * 2 % 256 ∧ (t.reg 15).toNat = a / 128) ∧
  (exec (.shl 15 15) s = .next t → (t.reg 15).toNat = f * 2 % 256)

/-- ANNN, FX1E, FX29 (R170, R204, R205): the address, the sum modulo 65536 with no flag, and `0x50 + 5 * V[X]` with no mask on
`V[X]`; each with its encoding. -/
def Obligations.IndexRegisterArithmetic : Prop := ∀ (s : State) (x : Reg) (nnn : Addr),
  (EncodedAs (.ldI nnn) (0xA000 + nnn.toNat) ∧
    ∃ t, exec (.ldI nnn) s = .next t ∧ t.i.toNat = nnn.toNat ∧ Advanced s t ∧ IndexFrame s t) ∧
  (EncodedAs (.addI x) (0xF01E + x.val * 256) ∧
    ∃ t, exec (.addI x) s = .next t ∧ t.i.toNat = (s.i.toNat + (s.reg x).toNat) % 65536 ∧ Advanced s t ∧ IndexFrame s t) ∧
  (EncodedAs (.ldF x) (0xF029 + x.val * 256) ∧
    ∃ t, exec (.ldF x) s = .next t ∧ t.i.toNat = 0x50 + 5 * (s.reg x).toNat ∧ Advanced s t ∧ IndexFrame s t)

/-- CXNN (R172): some byte, a free value, AND-ed with `NN`; no bit outside `NN` is ever set. The free value is the model's
`Config.rand` at its count of draws (the spec's decision D11, log 11); the statement holds for every count. -/
def Obligations.RandomByteIsMasked : Prop := ∀ (s : State) (x : Reg) (nn : Byte),
  ∃ t, exec (.rnd x nn) s = .next t ∧ t.reg x = Config.rand s.draws &&& nn ∧ t.reg x &&& ~~~nn = 0 ∧
    t.draws = s.draws + 1 ∧ Advanced s t ∧ (∀ k, k ≠ x → t.reg k = s.reg k) ∧ (∀ a, t.byteAt a = s.byteAt a) ∧
    t = { s with v := t.v, pc := t.pc, draws := t.draws }

/-- DXYN (R180, R181) without its loops: the selected pixels are flipped and no others, `V[15]` is 1 exactly when a selected
pixel was set before, `DIRTY` is set always. The order of the bits is the spec's decision D6 (log 6), the coordinate in `V[15]`
D5 (log 5), the range D2 (log 2). -/
def Obligations.DrawFlipsSelectedPixels : Prop := ∀ (s : State) (x y : Reg) (n : Fin 16), InRange s n.val →
  ∃ t, exec (.drw x y n) s = .next t ∧
    (∀ r c, Selected s x y n r c → pixel t.fb r c = !pixel s.fb r c) ∧
    (∀ r c, ¬ Selected s x y n r c → pixel t.fb r c = pixel s.fb r c) ∧
    ((∃ r c, Selected s x y n r c ∧ pixel s.fb r c = true) → t.reg 15 = 1) ∧
    ((¬ ∃ r c, Selected s x y n r c ∧ pixel s.fb r c = true) → t.reg 15 = 0) ∧
    t.dirty = true ∧ Advanced s t ∧ (∀ k, k ≠ 15 → t.reg k = s.reg k) ∧ (∀ a, t.byteAt a = s.byteAt a) ∧
    t = { s with v := t.v, fb := t.fb, dirty := t.dirty, pc := t.pc }

/-- R182: the same sprite drawn twice at the same position gives the frame buffer back; the second draw collides exactly when
some selected pixel was unset before the first. (R182's shorter wording, "if the sprite has any 1 bit", is this on a cleared
buffer; R180 and R181 decide, log 27.) "The same position" is a second draw from registers as they were before the first. -/
def Obligations.DrawTwiceRestoresTheFrame : Prop := ∀ (s t : State) (x y : Reg) (n : Fin 16), InRange s n.val →
  exec (.drw x y n) s = .next t →
  ∃ u, exec (.drw x y n) { t with v := s.v } = .next u ∧ (∀ r c, pixel u.fb r c = pixel s.fb r c) ∧
    (u.reg 15 = 1 ↔ ∃ r c, Selected s x y n r c ∧ pixel s.fb r c = false)

/-- `DataBounds` is precise (R65, R247): a range that passes 4095 changes nothing but the fault status, and `FINFO` is
`max(I, 4096)`. DXYN with no rows never faults, whatever `I` holds. The fault is the spec's decision D2 (log 2), its form D9 (log 9). -/
def Obligations.DataBoundsIsPrecise : Prop := ∀ (s : State) (x y : Reg) (n : Fin 16),
  (n.val = 0 → ∃ t, exec (.drw x y n) s = .next t ∧ t.status = s.status ∧ t.fcause = s.fcause ∧ t.finfo = s.finfo) ∧
  (n.val ≠ 0 → s.i.toNat + n.val - 1 > 4095 →
    ∃ t, exec (.drw x y n) s = .next t ∧ Raised 5 (max s.i.toNat 4096) s t) ∧
  (s.i.toNat + 2 > 4095 → ∃ t, exec (.ldB x) s = .next t ∧ Raised 5 (max s.i.toNat 4096) s t) ∧
  (s.i.toNat + x.val > 4095 → ∃ t, exec (.stRegs x) s = .next t ∧ Raised 5 (max s.i.toNat 4096) s t) ∧
  (s.i.toNat + x.val > 4095 → ∃ t, exec (.ldRegs x) s = .next t ∧ Raised 5 (max s.i.toNat 4096) s t)

/-- EX9E and EXA1 (R190, R191): a skip by the level of the key that `V[X]` names. Above 15 they raise `KeyIndexRange(V[X])`, the
spec's decision D8 (log 8). -/
def Obligations.KeySkipsReadTheKey : Prop := ∀ (s : State) (x : Reg),
  (∀ k : Key, (s.reg x).toNat = k.val →
    (∃ t, exec (.skp x) s = .next t ∧ PcFrame s t ∧ t.pc.toNat = (s.pc.toNat + if s.key k then 4 else 2) % 65536) ∧
    (∃ t, exec (.sknp x) s = .next t ∧ PcFrame s t ∧ t.pc.toNat = (s.pc.toNat + if s.key k then 2 else 4) % 65536)) ∧
  ((s.reg x).toNat > 15 →
    (∃ t, exec (.skp x) s = .next t ∧ Raised 6 (s.reg x).toNat s t) ∧
    (∃ t, exec (.sknp x) s = .next t ∧ Raised 6 (s.reg x).toNat s t))

/-- FX0A (R201): with no key pressed nothing changes at all; with keys pressed it stores the index of one of them, that of the
only one if there is one, and goes on. Which of several is free (the spec's decision D7, log 7). -/
def Obligations.KeyWaitStoresAPressedKey : Prop := ∀ (s : State) (x : Reg),
  ((∀ k, s.key k = false) → exec (.ldVxK x) s = .next s) ∧
  ((∃ k, s.key k = true) →
    ∃ t k, exec (.ldVxK x) s = .next t ∧ s.key k = true ∧ (t.reg x).toNat = k.val ∧ Advanced s t ∧ RegFrame [x] s t ∧
      (∀ j, (∀ l, s.key l = true ↔ l = j) → k = j))

/-- FX07, FX15, FX18 (R200, R202, R203): reading `DT`, writing `DT`, writing `ST`; the other timer is left alone; each with its
encoding. -/
def Obligations.TimerTransfers : Prop := ∀ (s : State) (x : Reg),
  (EncodedAs (.ldVxDt x) (0xF007 + x.val * 256) ∧
    ∃ t, exec (.ldVxDt x) s = .next t ∧ t.reg x = s.dt ∧ Advanced s t ∧ RegFrame [x] s t) ∧
  (EncodedAs (.ldDtVx x) (0xF015 + x.val * 256) ∧ ∃ t, exec (.ldDtVx x) s = .next t ∧ t.dt = s.reg x ∧ Advanced s t ∧
    (∀ k, t.reg k = s.reg k) ∧ (∀ a, t.byteAt a = s.byteAt a) ∧ t = { s with dt := t.dt, pc := t.pc }) ∧
  (EncodedAs (.ldStVx x) (0xF018 + x.val * 256) ∧ ∃ t, exec (.ldStVx x) s = .next t ∧ t.st = s.reg x ∧ Advanced s t ∧
    (∀ k, t.reg k = s.reg k) ∧ (∀ a, t.byteAt a = s.byteAt a) ∧ t = { s with st := t.st, pc := t.pc })

/-- FX33 (R206), in range, memory canonical: hundreds, tens and units at `I`, `I + 1`, `I + 2`, every other byte as it was. The
range is the spec's decision D2 (log 2). -/
def Obligations.DecimalDigitsStored : Prop := ∀ (s : State) (x : Reg), Memory.wf s.mem = true → s.i.toNat + 2 ≤ 4095 →
  ∃ t, exec (.ldB x) s = .next t ∧
    (t.byteAt s.i.toNat).toNat = (s.reg x).toNat / 100 ∧
    (t.byteAt (s.i.toNat + 1)).toNat = (s.reg x).toNat / 10 % 10 ∧
    (t.byteAt (s.i.toNat + 2)).toNat = (s.reg x).toNat % 10 ∧
    (∀ a, a < s.i.toNat ∨ s.i.toNat + 2 < a → t.byteAt a = s.byteAt a) ∧
    Advanced s t ∧ (∀ k, t.reg k = s.reg k) ∧ t = { s with mem := t.mem, pc := t.pc }

/-- FX55 (R207), in range, memory canonical: `V[0..X]` at `I` to `I + X`, every other byte as it was, `I` past the last one. The
range is the spec's decision D2 (log 2). -/
def Obligations.RegistersStored : Prop := ∀ (s : State) (x : Reg), Memory.wf s.mem = true → s.i.toNat + x.val ≤ 4095 →
  ∃ t, exec (.stRegs x) s = .next t ∧
    (∀ k : Reg, k ≤ x → t.byteAt (s.i.toNat + k.val) = s.reg k) ∧
    (∀ a, a < s.i.toNat ∨ s.i.toNat + x.val < a → t.byteAt a = s.byteAt a) ∧
    t.i.toNat = s.i.toNat + x.val + 1 ∧ Advanced s t ∧ (∀ k, t.reg k = s.reg k) ∧
    t = { s with mem := t.mem, i := t.i, pc := t.pc }

/-- FX65 (R208), in range: `V[0..X]` from `I` to `I + X`, the other registers and all of memory as they were, `I` past the last
byte. The range is the spec's decision D2 (log 2). -/
def Obligations.RegistersLoaded : Prop := ∀ (s : State) (x : Reg), s.i.toNat + x.val ≤ 4095 →
  ∃ t, exec (.ldRegs x) s = .next t ∧
    (∀ k : Reg, k ≤ x → t.reg k = s.byteAt (s.i.toNat + k.val)) ∧ (∀ k : Reg, x < k → t.reg k = s.reg k) ∧
    t.i.toNat = s.i.toNat + x.val + 1 ∧ Advanced s t ∧ (∀ a, t.byteAt a = s.byteAt a) ∧
    t = { s with v := t.v, i := t.i, pc := t.pc }

/-- R208's last corner case: FX55, then `I` set back, then FX65 with the same `X` gives the registers back, whatever the registers
held in between. -/
def Obligations.StoreThenLoadRestoresRegisters : Prop := ∀ (s t u : State) (x : Reg),
  Memory.wf s.mem = true → s.i.toNat + x.val ≤ 4095 → exec (.stRegs x) s = .next t → u.mem = t.mem → u.i = s.i →
  ∃ w, exec (.ldRegs x) u = .next w ∧ ∀ k : Reg, k ≤ x → w.reg k = s.reg k

/-- Fetch coherence (R73): FX55 or FX33 storing over the next instruction slot, over one byte of it, or elsewhere; the next step
fetches what is then in memory. The order of the two bytes is the spec's decision D1 (log 1), the range D2 (log 2). -/
def Obligations.NextFetchSeesTheStore : Prop := ∀ (s : State) (x : Reg),
  Memory.wf s.mem = true → s.status = .running → s.pc.toNat + 2 ≤ 4094 →
  (fetch s = .ok (encode (.stRegs x)) → s.i.toNat + x.val ≤ 4095 →
    ∃ t, step s = .next t ∧ t.pc.toNat = s.pc.toNat + 2 ∧
      NextWordHolds s t (x.val + 1) fun k => (s.reg (Fin.ofNat 16 k)).toNat) ∧
  (fetch s = .ok (encode (.ldB x)) → s.i.toNat + 2 ≤ 4095 →
    ∃ t, step s = .next t ∧ t.pc.toNat = s.pc.toNat + 2 ∧ NextWordHolds s t 3 (decimalDigit (s.reg x).toNat))

/-- The writers of each piece of state (the tables of 10_state.md section 1, R20 and R22): an instruction that is not listed for
a piece leaves it as it was. In particular only the six of R22 write `V[15]` without naming it, only FX33 and FX55 store, only
00E0 and DXYN write the frame buffer and `DIRTY`, and no instruction writes a key; only the instructions that R241 lists as
raising a fault write the fault status (the fault status is the spec's decision D9, log 9). -/
def Obligations.EachPieceHasOnlyItsWriters : Prop := ∀ (i : Instr) (s t : State), exec i s = .next t →
  (∀ k, ¬ MayWriteReg i k → t.reg k = s.reg k) ∧
  ((∀ nnn, i ≠ .ldI nnn) → (∀ x, i ≠ .addI x ∧ i ≠ .ldF x ∧ i ≠ .stRegs x ∧ i ≠ .ldRegs x) → t.i = s.i) ∧
  ((∀ nnn, i ≠ .call nnn) → t.stk = s.stk) ∧
  ((∀ nnn, i ≠ .call nnn) → i ≠ .ret → t.sp = s.sp) ∧
  ((∀ x, i ≠ .ldDtVx x) → t.dt = s.dt) ∧
  ((∀ x, i ≠ .ldStVx x) → t.st = s.st) ∧
  ((∀ x, i ≠ .ldB x ∧ i ≠ .stRegs x) → ∀ a, t.byteAt a = s.byteAt a) ∧
  (i ≠ .cls → (∀ x y n, i ≠ .drw x y n) → t.fb = s.fb ∧ t.dirty = s.dirty) ∧
  t.keys = s.keys ∧
  ((∀ nnn, i ≠ .call nnn) → i ≠ .ret → (∀ x y n, i ≠ .drw x y n) →
    (∀ x, i ≠ .skp x ∧ i ≠ .sknp x ∧ i ≠ .ldB x ∧ i ≠ .stRegs x ∧ i ≠ .ldRegs x) →
    t.status = s.status ∧ t.fcause = s.fcause ∧ t.finfo = s.finfo) ∧
  ((∀ x nn, i ≠ .rnd x nn) → t.draws = s.draws)

/-- The table of R42 for whole steps: a step from a RUNNING state that does not fault gives `PC` the value its instruction's kind
names, an unassigned word the default advance. -/
def Obligations.PcFollowsItsTable : Prop := ∀ s t : State,
  s.status = .running → step s = .next t → t.status = .running →
  ∃ w, fetch s = .ok w ∧ (∀ i, decode w = .ok i → PcAfter i s t) ∧ ((∀ i, decode w ≠ .ok i) → Advanced s t)

/-- `Tick` (R255): each timer down by one, a timer at 0 stays there, nothing else changes; and after `j` ticks a timer holds its
value less `j`, never below 0 (R256). -/
def Obligations.TickCountsDown : Prop := ∀ s : State,
  (s.tick.dt.toNat = s.dt.toNat - 1 ∧ s.tick.st.toNat = s.st.toNat - 1 ∧
    s.tick = { s with dt := s.tick.dt, st := s.tick.st }) ∧
  ∀ (hw : Params) (j : Nat) (p : Phase) (m : Session), performAll hw (List.replicate j .tick) ⟨s, p⟩ = .next m →
    m.machine.dt.toNat = s.dt.toNat - j ∧ m.machine.st.toNat = s.st.toNat - j

/-- `SetKey`, `ReadFrame`, `ClearDirty` (R260, R262, R263): the one key, the presented grid, the cleared flag, and nothing
else; besides `Reset`, only `SetKey` changes a key and only `ClearDirty` clears `DIRTY`. -/
def Obligations.CollaboratorOperations : Prop := ∀ (hw : Params) (s : State) (p : Phase) (k : Key) (b : Bool),
  (∃ m r, perform hw (.setKey k b) ⟨s, p⟩ = .next (m, r) ∧ m.machine.key k = b ∧ (∀ j, j ≠ k → m.machine.key j = s.key j) ∧
    m.machine = { s with keys := m.machine.keys }) ∧
  (∃ g, perform hw .readFrame ⟨s, p⟩ = .next (⟨s, p⟩, .frame g s.dirty) ∧
    ∀ (r : Fin 32) (c : Fin 64), g[r][c] = if pixel s.fb r c then 0xFF else 0x00) ∧
  (∃ m r, perform hw .clearDirty ⟨s, p⟩ = .next (m, r) ∧ m.machine = { s with dirty := false }) ∧
  (∀ op m r, perform hw op ⟨s, p⟩ = .next (m, r) →
    (op ≠ .reset → (∀ j c, op ≠ .setKey j c) → m.machine.keys = s.keys) ∧
    (op ≠ .reset → op ≠ .clearDirty → s.dirty = true → m.machine.dirty = true))

/-- `Load` on a fresh machine (R284, R285): a program of at most 3583 bytes lies at 512 on, every other byte and all other
state as it was; a longer one changes nothing and is reported. That `Load` is defined on a fresh machine only is the spec's
decision D18 (log 16); that a failed `Load` leaves the machine fresh, so that another may follow, is the model's (DEDUCED, log
16). -/
def Obligations.LoadCopiesOrChangesNothing : Prop := ∀ (hw : Params) (m : Session) (prog : List Byte),
  m.phase = .fresh → Memory.wf m.machine.mem = true →
  (prog.length ≤ 3583 → ∃ m', perform hw (.load prog) m = .next (m', .loadOk) ∧
    (∀ (j : Nat) (h : j < prog.length), m'.machine.byteAt (512 + j) = prog[j]) ∧
    (∀ a, a < 512 ∨ 512 + prog.length ≤ a → m'.machine.byteAt a = m.machine.byteAt a) ∧
    m'.machine = { m.machine with mem := m'.machine.mem }) ∧
  (prog.length > 3583 → perform hw (.load prog) m = .next (m, .loadTooLarge))

/-- `Load` is refused once the machine was loaded or has run (R286; the spec's decision D18, log 16): a `Load` on a machine that
is not fresh has no meaning; a machine stops being fresh with any operation but `Reset`, `ReadFrame` and a failed `Load`; and
then only `Reset` makes it fresh again. -/
def Obligations.LoadOnlyOnAFreshMachine : Prop := ∀ (hw : Params) (m : Session),
  (∀ prog, m.phase ≠ .fresh → perform hw (.load prog) m = .refused .loadOutsideReset) ∧
  (∀ op m' r, perform hw op m = .next (m', r) → op ≠ .reset → op ≠ .readFrame → r ≠ .loadTooLarge → m'.phase ≠ .fresh) ∧
  (∀ op m' r, perform hw op m = .next (m', r) → op ≠ .reset → m.phase ≠ .fresh → m'.phase ≠ .fresh) ∧
  (∃ m' r, perform hw .reset m = .next (m', r) ∧ m'.phase = .fresh)

/-- The dirty protocol (R264): a step that draws sets `DIRTY`, no operation but `ClearDirty` and `Reset` clears it, and a step
that does not draw never sets it. -/
def Obligations.DirtyProtocol : Prop :=
  (∀ s t : State, step s = .next t → drew s = true → t.dirty = true) ∧
  (∀ s t : State, step s = .next t → drew s = false → t.dirty = s.dirty) ∧
  (∀ (hw : Params) (ops : List Operation) (m m' : Session), (∀ op ∈ ops, op ≠ .clearDirty ∧ op ≠ .reset) →
    m.machine.dirty = true → performAll hw ops m = .next m' → m'.machine.dirty = true)

/-- `redraw_needed` (R45), the response of the `Step` operation: in both modes 1 on a step that executes 00E0 or a DXYN that does
not fault; on every other step, an unassigned word, a faulting step and a step on a FAULTED machine included, `DIRTY` after the
step under `level` and 0 under `pulse`. The default `level` is the spec's decision D12 (log 12). -/
def Obligations.RedrawNeededByMode : Prop := ∀ (hw : Params) (s t : State) (p : Phase), stepWith hw.aliasPolicy s = .next t →
  perform hw .step ⟨s, p⟩ = .next (⟨t, .started⟩, .redraw (redrawNeeded hw.redrawReturn s t)) ∧
  (∀ w, s.status = .running → fetch s = .ok w → decode w = .ok .cls → ∀ mode, redrawNeeded mode s t = true) ∧
  (∀ w x y n, s.status = .running → fetch s = .ok w → decode w = .ok (.drw x y n) → t.status = .running →
    ∀ mode, redrawNeeded mode s t = true) ∧
  (∀ w, s.status = .running → fetch s = .ok w → decode w ≠ .ok .cls → (∀ x y n, decode w ≠ .ok (.drw x y n)) →
    redrawNeeded .pulse s t = false) ∧
  (t.status = .faulted → redrawNeeded .pulse s t = false) ∧
  redrawNeeded .level s t = t.dirty

/-- The end of a run (R296; the spec's decision D22, log 21): the quiescent states are exactly the RUNNING ones whose instruction
at `PC` is a jump to its own address; FX0A with no key pressed is not among them. -/
def Obligations.QuiescentExactlyAtSelfJumps : Prop := ∀ s : State,
  s.Quiescent ↔ s.status = .running ∧ s.selfJump = true

/-- A step gives back the same state only at a self-jump, in an idle key wait, or on a FAULTED machine (R296, R46). -/
def Obligations.FixedPointsOfStep : Prop := ∀ s : State,
  step s = .next s ↔ s.status = .faulted ∨ (s.status = .running ∧ (s.selfJump = true ∨ s.idleKeyWait = true))

/-- Equal memories are equal data (log 19): two canonical lists that read alike at the 4096 addresses are the same list. -/
def Obligations.EqualBytesEqualMemory : Prop := ∀ m m' : Memory,
  Memory.wf m = true → Memory.wf m' = true → (∀ a, a < 4096 → Memory.read m a = Memory.read m' a) → m = m'

/-- The byte-by-byte stores of the pseudocode (R63, R64) and the range check of R65 agree: in range the loop of `MemWrite`s is the
one store the instructions make; out of range it faults at the address R65 names. The bounds are the spec's decision D2 (log
2). -/
def Obligations.ByteWiseStoresMeetTheRangeCheck : Prop := ∀ (s : State) (a : Nat) (bytes : List Byte),
  (a + bytes.length ≤ 4096 → s.memWriteSeq a bytes = .ok (s.storeBytes a bytes)) ∧
  (bytes ≠ [] → a + bytes.length > 4096 →
    s.memWriteSeq a bytes = .error (.dataBounds, max a 4096) ∧ boundsFault a bytes.length = some (max a 4096))

/-- The strict alias policy (R231; the spec's decision D4, log 4): under `refuse` a step has no meaning exactly where it would
execute an alias word, and is the hardware's step everywhere else. -/
def Obligations.StrictPolicyRefusesAliasWordsOnly : Prop := ∀ s : State,
  (∀ w, s.status = .running → fetch s = .ok w → decode w = .error .aliasWord →
    stepWith .refuse s = .refused (.aliasWord w)) ∧
  ((∀ w, s.status = .running → fetch s = .ok w → decode w ≠ .error .aliasWord) → stepWith .refuse s = step s)

/-- Digit glyphs (R68, R205): with memory as after the reset of a machine with any font, FX29 on a digit `d` makes `I` the address
of the five bytes of glyph `d`: for digit 0 those the source gives, for the others the font's. That the font is an argument is
the spec's decision D13 (log 13). -/
def Obligations.DigitAddressesFindTheirGlyphs : Prop := ∀ (f : Font) (s : State) (x : Reg),
  s.mem = (State.resetWith f).mem → (s.reg x).toNat < 16 →
  ∃ t, exec (.ldF x) s = .next t ∧
    ((s.reg x).toNat = 0 → t.loadBytes t.i.toNat 5 = [0xF0, 0x90, 0x90, 0x90, 0xF0]) ∧
    (∀ k : Fin 75, (s.reg x).toNat = k.val / 5 + 1 → t.byteAt (t.i.toNat + k.val % 5) = f k)

/-- No instruction reads `ST` (R26): two machines that differ in the sound timer only take the same step, up to the sound
timer. -/
def Obligations.SoundTimerIsNeverRead : Prop := ∀ (s s' : State) (b : Byte), step s = .next s' →
  ∃ t', step { s with st := b } = .next t' ∧ t' = { s' with st := t'.st }

/-- Stale stack slots cannot be observed (R25): two machines that differ only above the top of the stack stay so, step by step;
every other piece of state is the same in both. -/
def Obligations.StaleStackSlotsAreInvisible : Prop := ∀ s t s' : State,
  SameButStaleSlots s t → step s = .next s' → ∃ t', step t = .next t' ∧ SameButStaleSlots s' t'

/-- The assembler (R99; the spec's decision D17, log 22): instructions written in its syntax assemble to their encodings, one
after the other. -/
def Obligations.AssemblerEmitsEncodings : Prop := ∀ is : List Instr,
  assemble (is.map fun i => ⟨none, .op i.asmName i.asmOperands⟩) = some (is.flatMap encodeBytes)

/-- `FONT` as an argument (R3, R68; the spec's decision D13, log 13): for every 75 bytes of glyphs 1 to F, the machine built with
them holds after reset glyph 0 of the source, then these bytes, and zero everywhere else; all other state is that of `State.reset`,
and with the default font it is `State.reset`. -/
def Obligations.ResetWithAnyFont : Prop :=
  (∀ f : Font,
    (State.resetWith f).loadBytes 80 5 = [0xF0, 0x90, 0x90, 0x90, 0xF0] ∧
    (∀ k : Fin 75, (State.resetWith f).byteAt (85 + k.val) = f k) ∧
    (∀ a, a < 80 ∨ 160 ≤ a → (State.resetWith f).byteAt a = 0) ∧
    State.resetWith f = { State.reset with mem := (State.resetWith f).mem }) ∧
  State.resetWith hardware.font = State.reset
end

