-- ==== Sys2Proof/Laws/Decode.lean ====
section
/-! SUPPORT. The fields of a word as numbers, the fields of an assembled word, and the bytes of a word. -/

namespace Sys2Proof

/-- Every field is a quotient and a remainder of the word as a number (R91). -/
theorem fields_toNat (w : Word) :
    (fields w).f.toNat = w.toNat / 4096 ∧ (fields w).x.toNat = w.toNat / 256 % 16 ∧
    (fields w).y.toNat = w.toNat / 16 % 16 ∧ (fields w).n.toNat = w.toNat % 16 ∧
    (fields w).nn.toNat = w.toNat % 256 ∧ (fields w).nnn.toNat = w.toNat % 4096 := by
  have := w.isLt
  refine ⟨?_, ?_, ?_, ?_, ?_, ?_⟩ <;>
    simp only [fields, BitVec.extractLsb'_toNat, Nat.shiftRight_eq_div_pow] <;> omega

/-- The fields of `F X Y N` are those four digits. -/
theorem fields_wordXYN (f x y n : Fin 16) :
    (fields (wordXYN f x y n)).f.toNat = f.val ∧ nibble (fields (wordXYN f x y n)).x = x ∧
    nibble (fields (wordXYN f x y n)).y = y ∧ nibble (fields (wordXYN f x y n)).n = n := by
  obtain ⟨hf, hx, hy, hn, -, -⟩ := fields_toNat (wordXYN f x y n)
  have hw : (wordXYN f x y n).toNat = f.val * 4096 + x.val * 256 + y.val * 16 + n.val := by
    simp only [wordXYN, BitVec.toNat_ofNat]; omega
  refine ⟨by omega, Fin.ext ?_, Fin.ext ?_, Fin.ext ?_⟩ <;> simp only [nibble] <;> omega

/-- The fields of `F X NN`. -/
theorem fields_wordXNN (f x : Fin 16) (nn : Byte) :
    (fields (wordXNN f x nn)).f.toNat = f.val ∧ nibble (fields (wordXNN f x nn)).x = x ∧
    (fields (wordXNN f x nn)).nn = nn := by
  obtain ⟨hf, hx, -, -, hnn, -⟩ := fields_toNat (wordXNN f x nn)
  have hw : (wordXNN f x nn).toNat = f.val * 4096 + x.val * 256 + nn.toNat := by
    simp only [wordXNN, BitVec.toNat_ofNat]; omega
  refine ⟨by omega, Fin.ext ?_, BitVec.eq_of_toNat_eq ?_⟩
  · simp only [nibble]; omega
  · omega

/-- The fields of `F NNN`. -/
theorem fields_wordNNN (f : Fin 16) (nnn : Addr) :
    (fields (wordNNN f nnn)).f.toNat = f.val ∧ (fields (wordNNN f nnn)).nnn = nnn := by
  obtain ⟨hf, -, -, -, -, hnnn⟩ := fields_toNat (wordNNN f nnn)
  have hw : (wordNNN f nnn).toNat = f.val * 4096 + nnn.toNat := by
    simp only [wordNNN, BitVec.toNat_ofNat]; omega
  exact ⟨by omega, BitVec.eq_of_toNat_eq (by omega)⟩

theorem wordOfBytes_toNat (hi lo : Byte) : (wordOfBytes hi lo).toNat = hi.toNat * 256 + lo.toNat := by
  simp only [wordOfBytes, BitVec.toNat_ofNat]; omega

theorem hiByte_toNat (w : Word) : (hiByte w).toNat = w.toNat / 256 := by
  simp only [hiByte, BitVec.extractLsb'_toNat, Nat.shiftRight_eq_div_pow]; omega

theorem loByte_toNat (w : Word) : (loByte w).toNat = w.toNat % 256 := by
  simp only [loByte, BitVec.extractLsb'_toNat, Nat.shiftRight_eq_div_pow]; omega

/-- The two bytes of a word give the word back (R61). -/
theorem wordOfBytes_bytes (w : Word) : wordOfBytes (hiByte w) (loByte w) = w := by
  apply BitVec.eq_of_toNat_eq
  rw [wordOfBytes_toNat, hiByte_toNat, loByte_toNat]; omega

theorem bytes_wordOfBytes (hi lo : Byte) : hiByte (wordOfBytes hi lo) = hi ∧ loByte (wordOfBytes hi lo) = lo := by
  refine ⟨BitVec.eq_of_toNat_eq ?_, BitVec.eq_of_toNat_eq ?_⟩
  · rw [hiByte_toNat, wordOfBytes_toNat]; omega
  · rw [loByte_toNat, wordOfBytes_toNat]; omega

end Sys2Proof
end

