-- ==== Sys2Proof/Laws/Memory.lean ====
section
/-! SUPPORT. The laws of the memory array: a read after a write, and the canonical form, which every memory operation keeps. -/

namespace Sys2Proof.Machine

theorem Memory.read_write_same (m : Memory) (a : Nat) (v : Byte) (low : Nat) (h : Memory.wfFrom low m = true) :
    Memory.read (Memory.write m a v) a = v := by
  induction m generalizing low with
  | nil => unfold Memory.write; split <;> simp_all [Memory.read]
  | cons c m ih =>
    obtain ⟨b, w⟩ := c
    simp only [Memory.wfFrom, Bool.and_eq_true, decide_eq_true_eq] at h
    have absent : ∀ (m : Memory) (l : Nat), Memory.wfFrom l m = true → a < l → Memory.read m a = resetByte a := by
      intro m
      induction m with
      | nil => intro l _ _; rfl
      | cons d m ihm =>
        obtain ⟨e, u⟩ := d
        intro l hl hal
        simp only [Memory.wfFrom, Bool.and_eq_true, decide_eq_true_eq] at hl
        have : e ≠ a := by omega
        simp only [Memory.read, this, if_false]
        exact ihm (e + 1) hl.2 (by omega)
    unfold Memory.write
    split
    · rename_i hab
      split
      · rename_i hv
        have : b ≠ a := by omega
        simp only [Memory.read, this, if_false, hv]
        exact absent m (b + 1) h.2 (by omega)
      · simp [Memory.read]
    · split
      · rename_i _ hab
        split
        · rename_i hv
          rw [hv]; exact absent m (b + 1) h.2 (by omega)
        · simp [Memory.read]
      · rename_i _ hab
        have : b ≠ a := fun e => hab e.symm
        simp only [Memory.read, this, if_false]
        exact ih (b + 1) h.2

theorem Memory.read_write_other (m : Memory) (a c : Nat) (v : Byte) (hca : c ≠ a) :
    Memory.read (Memory.write m a v) c = Memory.read m c := by
  have hac : a ≠ c := fun e => hca e.symm
  induction m with
  | nil => unfold Memory.write; split <;> simp [Memory.read, hac]
  | cons d m ih =>
    obtain ⟨b, w⟩ := d
    unfold Memory.write
    split
    · split <;> simp [Memory.read, hac]
    · split
      · rename_i _ hab
        have : b ≠ c := by omega
        split <;> simp [Memory.read, hac, this]
      · simp only [Memory.read, ih]

/-- Nothing is listed below the lowest listed address. -/
theorem Memory.read_below (m : Memory) (low a : Nat) (h : Memory.wfFrom low m = true) (ha : a < low) :
    Memory.read m a = resetByte a := by
  induction m generalizing low with
  | nil => rfl
  | cons c m ih =>
    obtain ⟨b, w⟩ := c
    simp only [Memory.wfFrom, Bool.and_eq_true, decide_eq_true_eq] at h
    have : b ≠ a := by omega
    simp only [Memory.read, this, if_false]
    exact ih (b + 1) h.2 (by omega)

theorem Memory.wfFrom_mono (m : Memory) (low low' : Nat) (h : Memory.wfFrom low m = true) (hl : low' ≤ low) :
    Memory.wfFrom low' m = true := by
  cases m with
  | nil => rfl
  | cons c m =>
    obtain ⟨b, w⟩ := c
    simp only [Memory.wfFrom, Bool.and_eq_true, decide_eq_true_eq] at h ⊢
    exact ⟨⟨⟨by omega, h.1.1.2⟩, h.1.2⟩, h.2⟩

theorem Memory.wfFrom_write (m : Memory) (low a : Nat) (v : Byte) (h : Memory.wfFrom low m = true) (hl : low ≤ a)
    (ha : a < memSize) : Memory.wfFrom low (Memory.write m a v) = true := by
  induction m generalizing low with
  | nil => unfold Memory.write; split <;> simp_all [Memory.wfFrom]
  | cons c m ih =>
    obtain ⟨b, w⟩ := c
    have h' := h
    simp only [Memory.wfFrom, Bool.and_eq_true, decide_eq_true_eq] at h
    unfold Memory.write
    split
    · rename_i hab
      split
      · exact h'
      · rename_i hv
        simp only [Memory.wfFrom, Bool.and_eq_true, decide_eq_true_eq]
        exact ⟨⟨⟨hl, ha⟩, hv⟩, ⟨⟨by omega, h.1.1.2⟩, h.1.2⟩, h.2⟩
    · split
      · rename_i _ hab
        subst hab
        split
        · exact Memory.wfFrom_mono m (a + 1) low h.2 (by omega)
        · rename_i hv
          simp only [Memory.wfFrom, Bool.and_eq_true, decide_eq_true_eq]
          exact ⟨⟨⟨hl, ha⟩, hv⟩, h.2⟩
      · rename_i hlt hne
        simp only [Memory.wfFrom, Bool.and_eq_true, decide_eq_true_eq]
        exact ⟨h.1, ih (b + 1) h.2 (by omega)⟩

/-- A write inside the 4096 bytes keeps the canonical form. -/
theorem Memory.wf_write (m : Memory) (a : Nat) (v : Byte) (h : Memory.wf m = true) (ha : a < memSize) :
    Memory.wf (Memory.write m a v) = true :=
  Memory.wfFrom_write m 0 a v h (Nat.zero_le a) ha

/-- A run of writes inside the 4096 bytes keeps the canonical form. -/
theorem Memory.wf_writeBytes (m : Memory) (a : Nat) (bs : List Byte) (h : Memory.wf m = true)
    (ha : a + bs.length ≤ memSize) : Memory.wf (Memory.writeBytes m a bs) = true := by
  induction bs generalizing m a with
  | nil => exact h
  | cons b bs ih =>
    simp only [List.length_cons] at ha
    exact ih (Memory.write m a b) (a + 1) (Memory.wf_write m a b h (by omega)) (by omega)

theorem Memory.reset_wf : Memory.wf State.reset.mem = true := rfl

theorem fontMemory_wf (f : Font) : Memory.wf (fontMemory f) = true :=
  Memory.wf_writeBytes [] 85 _ rfl (by simp [memSize])

@[simp] theorem State.resetWith_mem (f : Font) : (State.resetWith f).mem = fontMemory f := by rw [State.resetWith]

/-- But for memory, the machine of any font starts as `State.reset`. -/
theorem State.resetWith_eq (f : Font) : State.resetWith f = { State.reset with mem := fontMemory f } := by rw [State.resetWith]

/-- The machine with the default font is the machine of `State.reset`. -/
theorem State.resetWith_default : State.resetWith defaultFont = State.reset := rfl

/-- A run of writes leaves every byte outside the run. -/
theorem Memory.read_writeBytes_outside (m : Memory) (a c : Nat) (bs : List Byte) (h : c < a ∨ a + bs.length ≤ c) :
    Memory.read (Memory.writeBytes m a bs) c = Memory.read m c := by
  induction bs generalizing m a with
  | nil => rfl
  | cons b bs ih =>
    simp only [List.length_cons] at h
    rw [Memory.writeBytes, ih (Memory.write m a b) (a + 1) (by omega), Memory.read_write_other m a c b (by omega)]

/-- A run of writes stores its bytes one after the other. -/
theorem Memory.read_writeBytes_inside (m : Memory) (a : Nat) (bs : List Byte) (h : Memory.wf m = true)
    (ha : a + bs.length ≤ memSize) (j : Nat) (hj : j < bs.length) :
    Memory.read (Memory.writeBytes m a bs) (a + j) = bs[j] := by
  induction bs generalizing m a j with
  | nil => simp at hj
  | cons b bs ih =>
    simp only [List.length_cons] at ha hj
    have hw := Memory.wf_write m a b h (by omega)
    cases j with
    | zero =>
      rw [Memory.writeBytes, Memory.read_writeBytes_outside _ _ _ _ (by omega)]
      exact Memory.read_write_same m a b 0 h
    | succ j =>
      have := ih (Memory.write m a b) (a + 1) hw (by omega) j (by omega)
      rw [Memory.writeBytes, show a + (j + 1) = a + 1 + j by omega, this]
      rfl

@[simp] theorem Memory.readBytes_length (m : Memory) (a n : Nat) : (Memory.readBytes m a n).length = n := by
  induction n generalizing a with
  | zero => rfl
  | succ n ih => simp [Memory.readBytes, ih]

/-- A run of reads gives the bytes one after the other. -/
theorem Memory.readBytes_get (m : Memory) (a n j : Nat) (h : j < n) :
    (Memory.readBytes m a n)[j]? = some (Memory.read m (a + j)) := by
  induction n generalizing a j with
  | zero => omega
  | succ n ih =>
    cases j with
    | zero => rfl
    | succ j =>
      rw [Memory.readBytes, List.getElem?_cons_succ, ih (a + 1) j (by omega)]
      congr 2; omega

/-- What memory holds after the reset of a machine with any font. -/
theorem fontMemory_read (f : Font) (a : Nat) : Memory.read (fontMemory f) a = resetByteWith f a := by
  by_cases h : 85 ≤ a ∧ a < 160
  · obtain ⟨j, rfl⟩ : ∃ j, a = 85 + j := ⟨a - 85, by omega⟩
    have hj : j < ((List.finRange 75).map f).length := by simp; omega
    rw [fontMemory, Memory.read_writeBytes_inside [] 85 _ rfl (by simp [memSize]) j hj]
    have h1 : ¬ 85 + j < 80 := by omega
    have h2 : ¬ 85 + j < 85 := by omega
    simp [resetByteWith, h1, h2, h.2]
  · rw [fontMemory, Memory.read_writeBytes_outside [] 85 a _ (by simp; omega)]
    show resetByte a = _
    unfold resetByte resetByteWith
    split
    · rfl
    · split
      · rfl
      · rw [dif_neg (by omega), dif_neg (by omega)]

end Sys2Proof.Machine
end

