-- ==== Sys2Proof/Laws/State.lean ====
section
/-! SUPPORT. One lemma per field per update of the state: what each named update leaves in each field. -/

namespace Sys2Proof.Machine

@[simp] theorem State.setReg_v (s : State) (k : Reg) (b : Byte) : (s.setReg k b).v = s.v.set k b := rfl
@[simp] theorem State.setReg_i (s : State) (k : Reg) (b : Byte) : (s.setReg k b).i = s.i := rfl
@[simp] theorem State.setReg_pc (s : State) (k : Reg) (b : Byte) : (s.setReg k b).pc = s.pc := rfl
@[simp] theorem State.setReg_sp (s : State) (k : Reg) (b : Byte) : (s.setReg k b).sp = s.sp := rfl
@[simp] theorem State.setReg_stk (s : State) (k : Reg) (b : Byte) : (s.setReg k b).stk = s.stk := rfl
@[simp] theorem State.setReg_dt (s : State) (k : Reg) (b : Byte) : (s.setReg k b).dt = s.dt := rfl
@[simp] theorem State.setReg_st (s : State) (k : Reg) (b : Byte) : (s.setReg k b).st = s.st := rfl
@[simp] theorem State.setReg_mem (s : State) (k : Reg) (b : Byte) : (s.setReg k b).mem = s.mem := rfl
@[simp] theorem State.setReg_fb (s : State) (k : Reg) (b : Byte) : (s.setReg k b).fb = s.fb := rfl
@[simp] theorem State.setReg_dirty (s : State) (k : Reg) (b : Byte) : (s.setReg k b).dirty = s.dirty := rfl
@[simp] theorem State.setReg_keys (s : State) (k : Reg) (b : Byte) : (s.setReg k b).keys = s.keys := rfl
@[simp] theorem State.setReg_status (s : State) (k : Reg) (b : Byte) : (s.setReg k b).status = s.status := rfl
@[simp] theorem State.setReg_fcause (s : State) (k : Reg) (b : Byte) : (s.setReg k b).fcause = s.fcause := rfl
@[simp] theorem State.setReg_finfo (s : State) (k : Reg) (b : Byte) : (s.setReg k b).finfo = s.finfo := rfl
@[simp] theorem State.setReg_draws (s : State) (k : Reg) (b : Byte) : (s.setReg k b).draws = s.draws := rfl

@[simp] theorem State.setRegs_i (s : State) (bs : List Byte) : (s.setRegs bs).i = s.i := by unfold State.setRegs; rfl
@[simp] theorem State.setRegs_pc (s : State) (bs : List Byte) : (s.setRegs bs).pc = s.pc := by unfold State.setRegs; rfl
@[simp] theorem State.setRegs_sp (s : State) (bs : List Byte) : (s.setRegs bs).sp = s.sp := by unfold State.setRegs; rfl
@[simp] theorem State.setRegs_stk (s : State) (bs : List Byte) : (s.setRegs bs).stk = s.stk := by unfold State.setRegs; rfl
@[simp] theorem State.setRegs_dt (s : State) (bs : List Byte) : (s.setRegs bs).dt = s.dt := by unfold State.setRegs; rfl
@[simp] theorem State.setRegs_st (s : State) (bs : List Byte) : (s.setRegs bs).st = s.st := by unfold State.setRegs; rfl
@[simp] theorem State.setRegs_mem (s : State) (bs : List Byte) : (s.setRegs bs).mem = s.mem := by unfold State.setRegs; rfl
@[simp] theorem State.setRegs_fb (s : State) (bs : List Byte) : (s.setRegs bs).fb = s.fb := by unfold State.setRegs; rfl
@[simp] theorem State.setRegs_dirty (s : State) (bs : List Byte) : (s.setRegs bs).dirty = s.dirty := by unfold State.setRegs; rfl
@[simp] theorem State.setRegs_keys (s : State) (bs : List Byte) : (s.setRegs bs).keys = s.keys := by unfold State.setRegs; rfl
@[simp] theorem State.setRegs_status (s : State) (bs : List Byte) : (s.setRegs bs).status = s.status := by unfold State.setRegs; rfl
@[simp] theorem State.setRegs_fcause (s : State) (bs : List Byte) : (s.setRegs bs).fcause = s.fcause := by unfold State.setRegs; rfl
@[simp] theorem State.setRegs_finfo (s : State) (bs : List Byte) : (s.setRegs bs).finfo = s.finfo := by unfold State.setRegs; rfl
@[simp] theorem State.setRegs_draws (s : State) (bs : List Byte) : (s.setRegs bs).draws = s.draws := by unfold State.setRegs; rfl

@[simp] theorem State.setIndex_v (s : State) (w : Word) : (s.setIndex w).v = s.v := rfl
@[simp] theorem State.setIndex_i (s : State) (w : Word) : (s.setIndex w).i = w := rfl
@[simp] theorem State.setIndex_pc (s : State) (w : Word) : (s.setIndex w).pc = s.pc := rfl
@[simp] theorem State.setIndex_sp (s : State) (w : Word) : (s.setIndex w).sp = s.sp := rfl
@[simp] theorem State.setIndex_stk (s : State) (w : Word) : (s.setIndex w).stk = s.stk := rfl
@[simp] theorem State.setIndex_dt (s : State) (w : Word) : (s.setIndex w).dt = s.dt := rfl
@[simp] theorem State.setIndex_st (s : State) (w : Word) : (s.setIndex w).st = s.st := rfl
@[simp] theorem State.setIndex_mem (s : State) (w : Word) : (s.setIndex w).mem = s.mem := rfl
@[simp] theorem State.setIndex_fb (s : State) (w : Word) : (s.setIndex w).fb = s.fb := rfl
@[simp] theorem State.setIndex_dirty (s : State) (w : Word) : (s.setIndex w).dirty = s.dirty := rfl
@[simp] theorem State.setIndex_keys (s : State) (w : Word) : (s.setIndex w).keys = s.keys := rfl
@[simp] theorem State.setIndex_status (s : State) (w : Word) : (s.setIndex w).status = s.status := rfl
@[simp] theorem State.setIndex_fcause (s : State) (w : Word) : (s.setIndex w).fcause = s.fcause := rfl
@[simp] theorem State.setIndex_finfo (s : State) (w : Word) : (s.setIndex w).finfo = s.finfo := rfl
@[simp] theorem State.setIndex_draws (s : State) (w : Word) : (s.setIndex w).draws = s.draws := rfl

@[simp] theorem State.setPc_v (s : State) (w : Word) : (s.setPc w).v = s.v := rfl
@[simp] theorem State.setPc_i (s : State) (w : Word) : (s.setPc w).i = s.i := rfl
@[simp] theorem State.setPc_pc (s : State) (w : Word) : (s.setPc w).pc = w := rfl
@[simp] theorem State.setPc_sp (s : State) (w : Word) : (s.setPc w).sp = s.sp := rfl
@[simp] theorem State.setPc_stk (s : State) (w : Word) : (s.setPc w).stk = s.stk := rfl
@[simp] theorem State.setPc_dt (s : State) (w : Word) : (s.setPc w).dt = s.dt := rfl
@[simp] theorem State.setPc_st (s : State) (w : Word) : (s.setPc w).st = s.st := rfl
@[simp] theorem State.setPc_mem (s : State) (w : Word) : (s.setPc w).mem = s.mem := rfl
@[simp] theorem State.setPc_fb (s : State) (w : Word) : (s.setPc w).fb = s.fb := rfl
@[simp] theorem State.setPc_dirty (s : State) (w : Word) : (s.setPc w).dirty = s.dirty := rfl
@[simp] theorem State.setPc_keys (s : State) (w : Word) : (s.setPc w).keys = s.keys := rfl
@[simp] theorem State.setPc_status (s : State) (w : Word) : (s.setPc w).status = s.status := rfl
@[simp] theorem State.setPc_fcause (s : State) (w : Word) : (s.setPc w).fcause = s.fcause := rfl
@[simp] theorem State.setPc_finfo (s : State) (w : Word) : (s.setPc w).finfo = s.finfo := rfl
@[simp] theorem State.setPc_draws (s : State) (w : Word) : (s.setPc w).draws = s.draws := rfl

@[simp] theorem State.advance_v (s : State) : (s.advance).v = s.v := rfl
@[simp] theorem State.advance_i (s : State) : (s.advance).i = s.i := rfl
@[simp] theorem State.advance_pc (s : State) : (s.advance).pc = s.pc + 2 := rfl
@[simp] theorem State.advance_sp (s : State) : (s.advance).sp = s.sp := rfl
@[simp] theorem State.advance_stk (s : State) : (s.advance).stk = s.stk := rfl
@[simp] theorem State.advance_dt (s : State) : (s.advance).dt = s.dt := rfl
@[simp] theorem State.advance_st (s : State) : (s.advance).st = s.st := rfl
@[simp] theorem State.advance_mem (s : State) : (s.advance).mem = s.mem := rfl
@[simp] theorem State.advance_fb (s : State) : (s.advance).fb = s.fb := rfl
@[simp] theorem State.advance_dirty (s : State) : (s.advance).dirty = s.dirty := rfl
@[simp] theorem State.advance_keys (s : State) : (s.advance).keys = s.keys := rfl
@[simp] theorem State.advance_status (s : State) : (s.advance).status = s.status := rfl
@[simp] theorem State.advance_fcause (s : State) : (s.advance).fcause = s.fcause := rfl
@[simp] theorem State.advance_finfo (s : State) : (s.advance).finfo = s.finfo := rfl
@[simp] theorem State.advance_draws (s : State) : (s.advance).draws = s.draws := rfl

@[simp] theorem State.setDt_v (s : State) (b : Byte) : (s.setDt b).v = s.v := rfl
@[simp] theorem State.setDt_i (s : State) (b : Byte) : (s.setDt b).i = s.i := rfl
@[simp] theorem State.setDt_pc (s : State) (b : Byte) : (s.setDt b).pc = s.pc := rfl
@[simp] theorem State.setDt_sp (s : State) (b : Byte) : (s.setDt b).sp = s.sp := rfl
@[simp] theorem State.setDt_stk (s : State) (b : Byte) : (s.setDt b).stk = s.stk := rfl
@[simp] theorem State.setDt_dt (s : State) (b : Byte) : (s.setDt b).dt = b := rfl
@[simp] theorem State.setDt_st (s : State) (b : Byte) : (s.setDt b).st = s.st := rfl
@[simp] theorem State.setDt_mem (s : State) (b : Byte) : (s.setDt b).mem = s.mem := rfl
@[simp] theorem State.setDt_fb (s : State) (b : Byte) : (s.setDt b).fb = s.fb := rfl
@[simp] theorem State.setDt_dirty (s : State) (b : Byte) : (s.setDt b).dirty = s.dirty := rfl
@[simp] theorem State.setDt_keys (s : State) (b : Byte) : (s.setDt b).keys = s.keys := rfl
@[simp] theorem State.setDt_status (s : State) (b : Byte) : (s.setDt b).status = s.status := rfl
@[simp] theorem State.setDt_fcause (s : State) (b : Byte) : (s.setDt b).fcause = s.fcause := rfl
@[simp] theorem State.setDt_finfo (s : State) (b : Byte) : (s.setDt b).finfo = s.finfo := rfl
@[simp] theorem State.setDt_draws (s : State) (b : Byte) : (s.setDt b).draws = s.draws := rfl

@[simp] theorem State.setSt_v (s : State) (b : Byte) : (s.setSt b).v = s.v := rfl
@[simp] theorem State.setSt_i (s : State) (b : Byte) : (s.setSt b).i = s.i := rfl
@[simp] theorem State.setSt_pc (s : State) (b : Byte) : (s.setSt b).pc = s.pc := rfl
@[simp] theorem State.setSt_sp (s : State) (b : Byte) : (s.setSt b).sp = s.sp := rfl
@[simp] theorem State.setSt_stk (s : State) (b : Byte) : (s.setSt b).stk = s.stk := rfl
@[simp] theorem State.setSt_dt (s : State) (b : Byte) : (s.setSt b).dt = s.dt := rfl
@[simp] theorem State.setSt_st (s : State) (b : Byte) : (s.setSt b).st = b := rfl
@[simp] theorem State.setSt_mem (s : State) (b : Byte) : (s.setSt b).mem = s.mem := rfl
@[simp] theorem State.setSt_fb (s : State) (b : Byte) : (s.setSt b).fb = s.fb := rfl
@[simp] theorem State.setSt_dirty (s : State) (b : Byte) : (s.setSt b).dirty = s.dirty := rfl
@[simp] theorem State.setSt_keys (s : State) (b : Byte) : (s.setSt b).keys = s.keys := rfl
@[simp] theorem State.setSt_status (s : State) (b : Byte) : (s.setSt b).status = s.status := rfl
@[simp] theorem State.setSt_fcause (s : State) (b : Byte) : (s.setSt b).fcause = s.fcause := rfl
@[simp] theorem State.setSt_finfo (s : State) (b : Byte) : (s.setSt b).finfo = s.finfo := rfl
@[simp] theorem State.setSt_draws (s : State) (b : Byte) : (s.setSt b).draws = s.draws := rfl

@[simp] theorem State.present_v (s : State) (f : FrameBuffer) : (s.present f).v = s.v := rfl
@[simp] theorem State.present_i (s : State) (f : FrameBuffer) : (s.present f).i = s.i := rfl
@[simp] theorem State.present_pc (s : State) (f : FrameBuffer) : (s.present f).pc = s.pc := rfl
@[simp] theorem State.present_sp (s : State) (f : FrameBuffer) : (s.present f).sp = s.sp := rfl
@[simp] theorem State.present_stk (s : State) (f : FrameBuffer) : (s.present f).stk = s.stk := rfl
@[simp] theorem State.present_dt (s : State) (f : FrameBuffer) : (s.present f).dt = s.dt := rfl
@[simp] theorem State.present_st (s : State) (f : FrameBuffer) : (s.present f).st = s.st := rfl
@[simp] theorem State.present_mem (s : State) (f : FrameBuffer) : (s.present f).mem = s.mem := rfl
@[simp] theorem State.present_fb (s : State) (f : FrameBuffer) : (s.present f).fb = f := rfl
@[simp] theorem State.present_dirty (s : State) (f : FrameBuffer) : (s.present f).dirty = true := rfl
@[simp] theorem State.present_keys (s : State) (f : FrameBuffer) : (s.present f).keys = s.keys := rfl
@[simp] theorem State.present_status (s : State) (f : FrameBuffer) : (s.present f).status = s.status := rfl
@[simp] theorem State.present_fcause (s : State) (f : FrameBuffer) : (s.present f).fcause = s.fcause := rfl
@[simp] theorem State.present_finfo (s : State) (f : FrameBuffer) : (s.present f).finfo = s.finfo := rfl
@[simp] theorem State.present_draws (s : State) (f : FrameBuffer) : (s.present f).draws = s.draws := rfl

@[simp] theorem State.raise_v (s : State) (f : Fault) (a : Nat) : (s.raise f a).v = s.v := rfl
@[simp] theorem State.raise_i (s : State) (f : Fault) (a : Nat) : (s.raise f a).i = s.i := rfl
@[simp] theorem State.raise_pc (s : State) (f : Fault) (a : Nat) : (s.raise f a).pc = s.pc := rfl
@[simp] theorem State.raise_sp (s : State) (f : Fault) (a : Nat) : (s.raise f a).sp = s.sp := rfl
@[simp] theorem State.raise_stk (s : State) (f : Fault) (a : Nat) : (s.raise f a).stk = s.stk := rfl
@[simp] theorem State.raise_dt (s : State) (f : Fault) (a : Nat) : (s.raise f a).dt = s.dt := rfl
@[simp] theorem State.raise_st (s : State) (f : Fault) (a : Nat) : (s.raise f a).st = s.st := rfl
@[simp] theorem State.raise_mem (s : State) (f : Fault) (a : Nat) : (s.raise f a).mem = s.mem := rfl
@[simp] theorem State.raise_fb (s : State) (f : Fault) (a : Nat) : (s.raise f a).fb = s.fb := rfl
@[simp] theorem State.raise_dirty (s : State) (f : Fault) (a : Nat) : (s.raise f a).dirty = s.dirty := rfl
@[simp] theorem State.raise_keys (s : State) (f : Fault) (a : Nat) : (s.raise f a).keys = s.keys := rfl
@[simp] theorem State.raise_status (s : State) (f : Fault) (a : Nat) : (s.raise f a).status = Status.faulted := rfl
@[simp] theorem State.raise_fcause (s : State) (f : Fault) (a : Nat) : (s.raise f a).fcause = f.code := rfl
@[simp] theorem State.raise_finfo (s : State) (f : Fault) (a : Nat) : (s.raise f a).finfo = BitVec.ofNat 16 a := rfl
@[simp] theorem State.raise_draws (s : State) (f : Fault) (a : Nat) : (s.raise f a).draws = s.draws := rfl

@[simp] theorem State.storeBytes_v (s : State) (a : Nat) (bs : List Byte) : (s.storeBytes a bs).v = s.v := rfl
@[simp] theorem State.storeBytes_i (s : State) (a : Nat) (bs : List Byte) : (s.storeBytes a bs).i = s.i := rfl
@[simp] theorem State.storeBytes_pc (s : State) (a : Nat) (bs : List Byte) : (s.storeBytes a bs).pc = s.pc := rfl
@[simp] theorem State.storeBytes_sp (s : State) (a : Nat) (bs : List Byte) : (s.storeBytes a bs).sp = s.sp := rfl
@[simp] theorem State.storeBytes_stk (s : State) (a : Nat) (bs : List Byte) : (s.storeBytes a bs).stk = s.stk := rfl
@[simp] theorem State.storeBytes_dt (s : State) (a : Nat) (bs : List Byte) : (s.storeBytes a bs).dt = s.dt := rfl
@[simp] theorem State.storeBytes_st (s : State) (a : Nat) (bs : List Byte) : (s.storeBytes a bs).st = s.st := rfl
@[simp] theorem State.storeBytes_mem (s : State) (a : Nat) (bs : List Byte) : (s.storeBytes a bs).mem = Memory.writeBytes s.mem a bs := rfl
@[simp] theorem State.storeBytes_fb (s : State) (a : Nat) (bs : List Byte) : (s.storeBytes a bs).fb = s.fb := rfl
@[simp] theorem State.storeBytes_dirty (s : State) (a : Nat) (bs : List Byte) : (s.storeBytes a bs).dirty = s.dirty := rfl
@[simp] theorem State.storeBytes_keys (s : State) (a : Nat) (bs : List Byte) : (s.storeBytes a bs).keys = s.keys := rfl
@[simp] theorem State.storeBytes_status (s : State) (a : Nat) (bs : List Byte) : (s.storeBytes a bs).status = s.status := rfl
@[simp] theorem State.storeBytes_fcause (s : State) (a : Nat) (bs : List Byte) : (s.storeBytes a bs).fcause = s.fcause := rfl
@[simp] theorem State.storeBytes_finfo (s : State) (a : Nat) (bs : List Byte) : (s.storeBytes a bs).finfo = s.finfo := rfl
@[simp] theorem State.storeBytes_draws (s : State) (a : Nat) (bs : List Byte) : (s.storeBytes a bs).draws = s.draws := rfl

@[simp] theorem State.resultThenFlag_v (s : State) (x : Reg) (r f : Byte) : (s.resultThenFlag x r f).v = (s.v.set x r).set flagReg f := rfl
@[simp] theorem State.resultThenFlag_i (s : State) (x : Reg) (r f : Byte) : (s.resultThenFlag x r f).i = s.i := rfl
@[simp] theorem State.resultThenFlag_pc (s : State) (x : Reg) (r f : Byte) : (s.resultThenFlag x r f).pc = s.pc := rfl
@[simp] theorem State.resultThenFlag_sp (s : State) (x : Reg) (r f : Byte) : (s.resultThenFlag x r f).sp = s.sp := rfl
@[simp] theorem State.resultThenFlag_stk (s : State) (x : Reg) (r f : Byte) : (s.resultThenFlag x r f).stk = s.stk := rfl
@[simp] theorem State.resultThenFlag_dt (s : State) (x : Reg) (r f : Byte) : (s.resultThenFlag x r f).dt = s.dt := rfl
@[simp] theorem State.resultThenFlag_st (s : State) (x : Reg) (r f : Byte) : (s.resultThenFlag x r f).st = s.st := rfl
@[simp] theorem State.resultThenFlag_mem (s : State) (x : Reg) (r f : Byte) : (s.resultThenFlag x r f).mem = s.mem := rfl
@[simp] theorem State.resultThenFlag_fb (s : State) (x : Reg) (r f : Byte) : (s.resultThenFlag x r f).fb = s.fb := rfl
@[simp] theorem State.resultThenFlag_dirty (s : State) (x : Reg) (r f : Byte) : (s.resultThenFlag x r f).dirty = s.dirty := rfl
@[simp] theorem State.resultThenFlag_keys (s : State) (x : Reg) (r f : Byte) : (s.resultThenFlag x r f).keys = s.keys := rfl
@[simp] theorem State.resultThenFlag_status (s : State) (x : Reg) (r f : Byte) : (s.resultThenFlag x r f).status = s.status := rfl
@[simp] theorem State.resultThenFlag_fcause (s : State) (x : Reg) (r f : Byte) : (s.resultThenFlag x r f).fcause = s.fcause := rfl
@[simp] theorem State.resultThenFlag_finfo (s : State) (x : Reg) (r f : Byte) : (s.resultThenFlag x r f).finfo = s.finfo := rfl
@[simp] theorem State.resultThenFlag_draws (s : State) (x : Reg) (r f : Byte) : (s.resultThenFlag x r f).draws = s.draws := rfl

@[simp] theorem State.flagThenResult_v (s : State) (x : Reg) (r f : Byte) : (s.flagThenResult x r f).v = (s.v.set flagReg f).set x r := rfl
@[simp] theorem State.flagThenResult_i (s : State) (x : Reg) (r f : Byte) : (s.flagThenResult x r f).i = s.i := rfl
@[simp] theorem State.flagThenResult_pc (s : State) (x : Reg) (r f : Byte) : (s.flagThenResult x r f).pc = s.pc := rfl
@[simp] theorem State.flagThenResult_sp (s : State) (x : Reg) (r f : Byte) : (s.flagThenResult x r f).sp = s.sp := rfl
@[simp] theorem State.flagThenResult_stk (s : State) (x : Reg) (r f : Byte) : (s.flagThenResult x r f).stk = s.stk := rfl
@[simp] theorem State.flagThenResult_dt (s : State) (x : Reg) (r f : Byte) : (s.flagThenResult x r f).dt = s.dt := rfl
@[simp] theorem State.flagThenResult_st (s : State) (x : Reg) (r f : Byte) : (s.flagThenResult x r f).st = s.st := rfl
@[simp] theorem State.flagThenResult_mem (s : State) (x : Reg) (r f : Byte) : (s.flagThenResult x r f).mem = s.mem := rfl
@[simp] theorem State.flagThenResult_fb (s : State) (x : Reg) (r f : Byte) : (s.flagThenResult x r f).fb = s.fb := rfl
@[simp] theorem State.flagThenResult_dirty (s : State) (x : Reg) (r f : Byte) : (s.flagThenResult x r f).dirty = s.dirty := rfl
@[simp] theorem State.flagThenResult_keys (s : State) (x : Reg) (r f : Byte) : (s.flagThenResult x r f).keys = s.keys := rfl
@[simp] theorem State.flagThenResult_status (s : State) (x : Reg) (r f : Byte) : (s.flagThenResult x r f).status = s.status := rfl
@[simp] theorem State.flagThenResult_fcause (s : State) (x : Reg) (r f : Byte) : (s.flagThenResult x r f).fcause = s.fcause := rfl
@[simp] theorem State.flagThenResult_finfo (s : State) (x : Reg) (r f : Byte) : (s.flagThenResult x r f).finfo = s.finfo := rfl
@[simp] theorem State.flagThenResult_draws (s : State) (x : Reg) (r f : Byte) : (s.flagThenResult x r f).draws = s.draws := rfl

@[simp] theorem State.tick_v (s : State) : (s.tick).v = s.v := rfl
@[simp] theorem State.tick_i (s : State) : (s.tick).i = s.i := rfl
@[simp] theorem State.tick_pc (s : State) : (s.tick).pc = s.pc := rfl
@[simp] theorem State.tick_sp (s : State) : (s.tick).sp = s.sp := rfl
@[simp] theorem State.tick_stk (s : State) : (s.tick).stk = s.stk := rfl
@[simp] theorem State.tick_dt (s : State) : (s.tick).dt = countDown s.dt := rfl
@[simp] theorem State.tick_st (s : State) : (s.tick).st = countDown s.st := rfl
@[simp] theorem State.tick_mem (s : State) : (s.tick).mem = s.mem := rfl
@[simp] theorem State.tick_fb (s : State) : (s.tick).fb = s.fb := rfl
@[simp] theorem State.tick_dirty (s : State) : (s.tick).dirty = s.dirty := rfl
@[simp] theorem State.tick_keys (s : State) : (s.tick).keys = s.keys := rfl
@[simp] theorem State.tick_status (s : State) : (s.tick).status = s.status := rfl
@[simp] theorem State.tick_fcause (s : State) : (s.tick).fcause = s.fcause := rfl
@[simp] theorem State.tick_finfo (s : State) : (s.tick).finfo = s.finfo := rfl
@[simp] theorem State.tick_draws (s : State) : (s.tick).draws = s.draws := rfl

@[simp] theorem State.setKey_v (s : State) (k : Key) (b : Bool) : (s.setKey k b).v = s.v := rfl
@[simp] theorem State.setKey_i (s : State) (k : Key) (b : Bool) : (s.setKey k b).i = s.i := rfl
@[simp] theorem State.setKey_pc (s : State) (k : Key) (b : Bool) : (s.setKey k b).pc = s.pc := rfl
@[simp] theorem State.setKey_sp (s : State) (k : Key) (b : Bool) : (s.setKey k b).sp = s.sp := rfl
@[simp] theorem State.setKey_stk (s : State) (k : Key) (b : Bool) : (s.setKey k b).stk = s.stk := rfl
@[simp] theorem State.setKey_dt (s : State) (k : Key) (b : Bool) : (s.setKey k b).dt = s.dt := rfl
@[simp] theorem State.setKey_st (s : State) (k : Key) (b : Bool) : (s.setKey k b).st = s.st := rfl
@[simp] theorem State.setKey_mem (s : State) (k : Key) (b : Bool) : (s.setKey k b).mem = s.mem := rfl
@[simp] theorem State.setKey_fb (s : State) (k : Key) (b : Bool) : (s.setKey k b).fb = s.fb := rfl
@[simp] theorem State.setKey_dirty (s : State) (k : Key) (b : Bool) : (s.setKey k b).dirty = s.dirty := rfl
@[simp] theorem State.setKey_keys (s : State) (k : Key) (b : Bool) : (s.setKey k b).keys = s.keys.set k b := rfl
@[simp] theorem State.setKey_status (s : State) (k : Key) (b : Bool) : (s.setKey k b).status = s.status := rfl
@[simp] theorem State.setKey_fcause (s : State) (k : Key) (b : Bool) : (s.setKey k b).fcause = s.fcause := rfl
@[simp] theorem State.setKey_finfo (s : State) (k : Key) (b : Bool) : (s.setKey k b).finfo = s.finfo := rfl
@[simp] theorem State.setKey_draws (s : State) (k : Key) (b : Bool) : (s.setKey k b).draws = s.draws := rfl

@[simp] theorem State.clearDirty_v (s : State) : (s.clearDirty).v = s.v := rfl
@[simp] theorem State.clearDirty_i (s : State) : (s.clearDirty).i = s.i := rfl
@[simp] theorem State.clearDirty_pc (s : State) : (s.clearDirty).pc = s.pc := rfl
@[simp] theorem State.clearDirty_sp (s : State) : (s.clearDirty).sp = s.sp := rfl
@[simp] theorem State.clearDirty_stk (s : State) : (s.clearDirty).stk = s.stk := rfl
@[simp] theorem State.clearDirty_dt (s : State) : (s.clearDirty).dt = s.dt := rfl
@[simp] theorem State.clearDirty_st (s : State) : (s.clearDirty).st = s.st := rfl
@[simp] theorem State.clearDirty_mem (s : State) : (s.clearDirty).mem = s.mem := rfl
@[simp] theorem State.clearDirty_fb (s : State) : (s.clearDirty).fb = s.fb := rfl
@[simp] theorem State.clearDirty_dirty (s : State) : (s.clearDirty).dirty = false := rfl
@[simp] theorem State.clearDirty_keys (s : State) : (s.clearDirty).keys = s.keys := rfl
@[simp] theorem State.clearDirty_status (s : State) : (s.clearDirty).status = s.status := rfl
@[simp] theorem State.clearDirty_fcause (s : State) : (s.clearDirty).fcause = s.fcause := rfl
@[simp] theorem State.clearDirty_finfo (s : State) : (s.clearDirty).finfo = s.finfo := rfl
@[simp] theorem State.clearDirty_draws (s : State) : (s.clearDirty).draws = s.draws := rfl

@[simp] theorem State.skipIf_v (s : State) (c : Bool) : (s.skipIf c).v = s.v := by
  cases c <;> rfl
@[simp] theorem State.skipIf_i (s : State) (c : Bool) : (s.skipIf c).i = s.i := by
  cases c <;> rfl
theorem State.skipIf_pc (s : State) (c : Bool) : (s.skipIf c).pc = if c then s.pc + 4 else s.pc + 2 := by
  cases c <;> rfl
@[simp] theorem State.skipIf_sp (s : State) (c : Bool) : (s.skipIf c).sp = s.sp := by
  cases c <;> rfl
@[simp] theorem State.skipIf_stk (s : State) (c : Bool) : (s.skipIf c).stk = s.stk := by
  cases c <;> rfl
@[simp] theorem State.skipIf_dt (s : State) (c : Bool) : (s.skipIf c).dt = s.dt := by
  cases c <;> rfl
@[simp] theorem State.skipIf_st (s : State) (c : Bool) : (s.skipIf c).st = s.st := by
  cases c <;> rfl
@[simp] theorem State.skipIf_mem (s : State) (c : Bool) : (s.skipIf c).mem = s.mem := by
  cases c <;> rfl
@[simp] theorem State.skipIf_fb (s : State) (c : Bool) : (s.skipIf c).fb = s.fb := by
  cases c <;> rfl
@[simp] theorem State.skipIf_dirty (s : State) (c : Bool) : (s.skipIf c).dirty = s.dirty := by
  cases c <;> rfl
@[simp] theorem State.skipIf_keys (s : State) (c : Bool) : (s.skipIf c).keys = s.keys := by
  cases c <;> rfl
@[simp] theorem State.skipIf_status (s : State) (c : Bool) : (s.skipIf c).status = s.status := by
  cases c <;> rfl
@[simp] theorem State.skipIf_fcause (s : State) (c : Bool) : (s.skipIf c).fcause = s.fcause := by
  cases c <;> rfl
@[simp] theorem State.skipIf_finfo (s : State) (c : Bool) : (s.skipIf c).finfo = s.finfo := by
  cases c <;> rfl
@[simp] theorem State.skipIf_draws (s : State) (c : Bool) : (s.skipIf c).draws = s.draws := by
  cases c <;> rfl

/-! A state is the pair of its fields: two states with the same fields are the same. -/

theorem State.ext_fields (s t : State) (h_v : s.v = t.v) (h_i : s.i = t.i) (h_pc : s.pc = t.pc) (h_sp : s.sp = t.sp) (h_stk : s.stk = t.stk) (h_dt : s.dt = t.dt) (h_st : s.st = t.st) (h_mem : s.mem = t.mem) (h_fb : s.fb = t.fb) (h_dirty : s.dirty = t.dirty) (h_keys : s.keys = t.keys) (h_status : s.status = t.status) (h_fcause : s.fcause = t.fcause) (h_finfo : s.finfo = t.finfo) (h_draws : s.draws = t.draws) :
    s = t := by
  cases s; cases t; simp_all

end Sys2Proof.Machine
end

