-- ==== Sys2Proof/Laws/Ops.lean ====
section
/-! SUPPORT. One lemma per shared operation, saying once everything it can do. -/

namespace Sys2Proof.Machine

theorem State.reg_eq (s t : State) (k : Reg) (h : t.v = s.v) : t.reg k = s.reg k := by simp [State.reg, h]

theorem State.reg_setReg (s : State) (x k : Reg) (b : Byte) :
    (s.setReg x b).reg k = if k = x then b else s.reg k := by
  unfold State.reg State.setReg
  by_cases h : k = x
  · simp [h]
  · have : x.val ≠ k.val := fun e => h (Fin.ext e.symm)
    simp [h, this]

@[simp] theorem State.reg_setReg_same (s : State) (x : Reg) (b : Byte) : (s.setReg x b).reg x = b := by
  simp [State.reg_setReg]

theorem State.reg_setReg_other (s : State) (x k : Reg) (b : Byte) (h : k ≠ x) : (s.setReg x b).reg k = s.reg k := by
  simp [State.reg_setReg, h]

@[simp] theorem State.reg_advance (s : State) (k : Reg) : s.advance.reg k = s.reg k := rfl
@[simp] theorem State.reg_setPc (s : State) (w : Word) (k : Reg) : (s.setPc w).reg k = s.reg k := rfl
@[simp] theorem State.reg_setIndex (s : State) (w : Word) (k : Reg) : (s.setIndex w).reg k = s.reg k := rfl
@[simp] theorem State.reg_setDt (s : State) (b : Byte) (k : Reg) : (s.setDt b).reg k = s.reg k := rfl
@[simp] theorem State.reg_setSt (s : State) (b : Byte) (k : Reg) : (s.setSt b).reg k = s.reg k := rfl
@[simp] theorem State.reg_present (s : State) (f : FrameBuffer) (k : Reg) : (s.present f).reg k = s.reg k := rfl
@[simp] theorem State.reg_raise (s : State) (f : Fault) (a : Nat) (k : Reg) : (s.raise f a).reg k = s.reg k := rfl
@[simp] theorem State.reg_storeBytes (s : State) (a : Nat) (bs : List Byte) (k : Reg) :
    (s.storeBytes a bs).reg k = s.reg k := rfl
@[simp] theorem State.reg_skipIf (s : State) (c : Bool) (k : Reg) : (s.skipIf c).reg k = s.reg k := by cases c <;> rfl

theorem State.reg_resultThenFlag (s : State) (x k : Reg) (r f : Byte) :
    (s.resultThenFlag x r f).reg k = if k = flagReg then f else if k = x then r else s.reg k := by
  simp [State.resultThenFlag, State.reg_setReg]

theorem State.reg_flagThenResult (s : State) (x k : Reg) (r f : Byte) :
    (s.flagThenResult x r f).reg k = if k = x then r else if k = flagReg then f else s.reg k := by
  simp [State.flagThenResult, State.reg_setReg]

theorem State.reg_setRegs (s : State) (bs : List Byte) (k : Reg) : (s.setRegs bs).reg k = bs.getD k.val (s.reg k) := by
  simp [State.reg, State.setRegs]

@[simp] theorem State.regsUpTo_length (s : State) (x : Reg) : (s.regsUpTo x).length = x.val + 1 := by
  simp [State.regsUpTo]

/-- The run of registers that FX55 stores. -/
theorem State.regsUpTo_get (s : State) (x k : Reg) (h : k.val ≤ x.val) : (s.regsUpTo x)[k.val]? = some (s.reg k) := by
  have hk : k.val < x.val + 1 := by omega
  simp [State.regsUpTo, State.reg, hk]

/-- Everything a push can do (R25). -/
theorem State.push?_some (s t : State) (w : Word) (h : s.push? w = some t) :
    s.sp.val < 16 ∧ t.sp.val = s.sp.val + 1 ∧
    (∀ j : Fin 16, t.stk[j] = if j.val = s.sp.val then w else s.stk[j]) ∧
    t = { s with stk := t.stk, sp := t.sp } := by
  unfold State.push? at h
  split at h
  · rename_i hsp
    cases h
    refine ⟨hsp, rfl, fun j => ?_, rfl⟩
    by_cases e : j.val = s.sp.val
    · simp [e]
    · have : s.sp.val ≠ j.val := fun h => e h.symm
      simp [e, this]
  · cases h

theorem State.push?_none (s : State) (w : Word) : s.push? w = none ↔ s.sp.val = 16 := by
  unfold State.push?
  split <;> simp <;> omega

/-- Everything a pop can do (R25). -/
theorem State.pop?_some (s t : State) (w : Word) (h : s.pop? = some (w, t)) :
    ∃ j : Fin 16, s.sp.val = j.val + 1 ∧ w = s.stk[j] ∧ t.sp.val = j.val ∧ t = { s with sp := t.sp } := by
  unfold State.pop? at h
  split at h
  · rename_i hsp
    cases h
    exact ⟨⟨s.sp.val - 1, by omega⟩, by simp; omega, rfl, rfl, rfl⟩
  · cases h

theorem State.pop?_none (s : State) : s.pop? = none ↔ s.sp.val = 0 := by
  unfold State.pop?
  split <;> simp <;> omega

/-- The bounds check (R65): the fault is `DataBounds` with `max(I, 4096)`, or there is none. -/
theorem boundsFault_some (base n a : Nat) :
    boundsFault base n = some a ↔ (n ≠ 0 ∧ base + n - 1 > 4095) ∧ a = max base 4096 := by
  unfold boundsFault
  split <;> simp_all [eq_comm]

theorem boundsFault_none (base n : Nat) : boundsFault base n = none ↔ n = 0 ∨ base + n ≤ memSize := by
  unfold boundsFault memSize
  split <;> simp_all <;> omega

/-- Everything the bounds check can do before an instruction's effects. -/
theorem State.withRange_cases (s : State) (n : Nat) (go : Result) :
    ((n ≠ 0 ∧ s.i.toNat + n - 1 > 4095) ∧ s.withRange n go = .next (s.raise .dataBounds (max s.i.toNat 4096))) ∨
    ((n = 0 ∨ s.i.toNat + n ≤ memSize) ∧ s.withRange n go = go) := by
  unfold State.withRange
  cases h : boundsFault s.i.toNat n with
  | some a =>
    obtain ⟨h1, rfl⟩ := (boundsFault_some _ _ _).1 h
    exact .inl ⟨h1, rfl⟩
  | none => exact .inr ⟨(boundsFault_none _ _).1 h, rfl⟩

/-- Everything the fetch can do (R62), in the order of its checks. -/
theorem fetch_cases (s : State) :
    (s.pc.toNat % 2 = 1 ∧ fetch s = .error (.fetchMisaligned, s.pc.toNat)) ∨
    (s.pc.toNat % 2 = 0 ∧ 4096 ≤ s.pc.toNat ∧ fetch s = .error (.fetchBounds, s.pc.toNat)) ∨
    (s.pc.toNat % 2 = 0 ∧ s.pc.toNat ≤ 4094 ∧
      fetch s = .ok (wordOfBytes (s.byteAt s.pc.toNat) (s.byteAt (s.pc.toNat + 1)))) := by
  unfold fetch
  by_cases h1 : s.pc.toNat % 2 = 1
  · exact .inl ⟨h1, by simp [h1]⟩
  · by_cases h2 : s.pc.toNat + 1 > 4095
    · exact .inr (.inl ⟨by omega, by omega, by simp [h1, h2]⟩)
    · exact .inr (.inr ⟨by omega, by omega, by simp [h1, h2]⟩)

/-- The key a byte names (R190). -/
theorem keyIndex_some (b : Byte) (k : Key) : keyIndex b = some k ↔ b.toNat = k.val := by
  unfold keyIndex
  split
  · simp [Fin.ext_iff]
  · simp; omega

theorem keyIndex_none (b : Byte) : keyIndex b = none ↔ 16 ≤ b.toNat := by
  unfold keyIndex
  split <;> simp <;> omega

theorem mem_pressedKeys (keys : Vector Bool 16) (k : Key) : k ∈ pressedKeys keys ↔ keys[k] = true := by
  simp [pressedKeys]

/-- The picked key is a pressed one, and there is one unless no key is pressed (R201). -/
theorem pickKey_some (keys : Vector Bool 16) (k : Key) (h : pickKey keys = some k) : keys[k] = true := by
  have mem : k ∈ pressedKeys keys := by
    unfold pickKey at h
    split at h
    · cases h
    · rename_i e
      cases h
      rw [e]; simp
    · rename_i l _ e
      cases h
      rw [e, List.getD_eq_getElem _ _ (Nat.mod_lt _ (by simp))]
      exact List.getElem_mem _
  exact (mem_pressedKeys keys k).1 mem

theorem pickKey_none (keys : Vector Bool 16) : pickKey keys = none ↔ ∀ k : Key, keys[k] = false := by
  have h : pickKey keys = none ↔ pressedKeys keys = [] := by
    unfold pickKey
    split <;> simp_all
  rw [h]
  simp [pressedKeys]

/-- With one key pressed the choice is that key (R201). -/
theorem pickKey_one (keys : Vector Bool 16) (k : Key) (h : ∀ j : Key, keys[j] = true ↔ j = k) :
    pickKey keys = some k := by
  cases e : pickKey keys with
  | none => exact absurd ((pickKey_none keys).1 e k) (by simp [(h k).2 rfl])
  | some j => rw [(h j).1 (pickKey_some keys j e)]

theorem flagByte_toNat (c : Bool) : (flagByte c).toNat = if c then 1 else 0 := by cases c <;> rfl

theorem countDown_toNat (b : Byte) : (countDown b).toNat = b.toNat - 1 := by
  unfold countDown
  split <;> bv_omega

theorem lowBitFlag_toNat (a : Byte) : (lowBitFlag a).toNat = a.toNat % 2 := by revert a; decide

theorem highBitFlag_toNat (a : Byte) : (highBitFlag a).toNat = a.toNat / 128 := by revert a; decide

/-- The default advance as a number (R42). -/
theorem State.advance_pc_toNat (s : State) : s.advance.pc.toNat = (s.pc.toNat + 2) % 65536 := by
  simp

/-- A skip as a number (R42). -/
theorem State.skipIf_pc_toNat (s : State) (c : Bool) :
    (s.skipIf c).pc.toNat = (s.pc.toNat + if c then 4 else 2) % 65536 := by
  rw [State.skipIf_pc]; split <;> simp

/-- A skip changes `PC` only. -/
theorem State.skipIf_eq (s : State) (c : Bool) : s.skipIf c = { s with pc := (s.skipIf c).pc } := by
  cases c <;> rfl

theorem addrWord_toNat (nnn : Addr) : (addrWord nnn).toNat = nnn.toNat := by
  simp [addrWord]; omega

theorem State.indexedTarget_toNat (s : State) (nnn : Addr) :
    (s.indexedTarget nnn).toNat = nnn.toNat + (s.reg 0).toNat := by
  simp [State.indexedTarget, addrWord, byteWord]; omega

theorem glyphAddress_toNat (b : Byte) : (glyphAddress b).toNat = 80 + 5 * b.toNat := by
  have := b.isLt
  simp [glyphAddress, fontBase, glyphBytes]; omega

/-- What memory holds after the reset of a machine with any font (R33, R68). -/
theorem State.byteAt_resetWith (f : Font) (a : Nat) : (State.resetWith f).byteAt a = resetByteWith f a := by
  rw [State.byteAt, State.resetWith_mem, fontMemory_read]

end Sys2Proof.Machine
end

