-- ==== Sys2Proof/Laws/Draw.lean ====
section
/-! SUPPORT. One pixel read after one pixel written, and what flipping a pixel does (R180). -/

namespace Sys2Proof.Machine

theorem pixel_setPixel (fb : FrameBuffer) (r r' : Fin 32) (c c' : Fin 64) (b : Bool) :
    pixel (setPixel fb r c b) r' c' = if r' = r ∧ c' = c then b else pixel fb r' c' := by
  unfold pixel setPixel
  by_cases hr : r' = r
  · subst hr
    by_cases hc : c' = c
    · simp [hc]
    · have : c.val ≠ c'.val := fun e => hc (Fin.ext e.symm)
      simp [hc, this]
  · have : r.val ≠ r'.val := fun e => hr (Fin.ext e.symm)
    simp [hr, this]

/-- A flip changes its own pixel only, and notes a collision exactly when that pixel was set. -/
theorem flipPixel_spec (p : FrameBuffer × Bool) (r r' : Fin 32) (c c' : Fin 64) :
    pixel (flipPixel p r c).1 r' c' = (if r' = r ∧ c' = c then !pixel p.1 r c else pixel p.1 r' c') ∧
    (flipPixel p r c).2 = (p.2 || pixel p.1 r c) := by
  refine ⟨?_, rfl⟩
  simp [flipPixel, pixel_setPixel]

theorem pixel_blankFrame_row (r : Fin 32) (c : Fin 64) :
    pixel (Vector.replicate 32 (Vector.replicate 64 false)) r c = false := by
  simp [pixel]

end Sys2Proof.Machine
end

