-- ==== Sys2Proof/Laws/Operations.lean ====
section
/-! SUPPORT. What the `Step` operation answers, and the one induction over schedules. -/

namespace Sys2Proof.Machine

/-- The `Step` operation is one step under the machine's alias policy, its response the redraw bit (R45). -/
theorem perform_step (hw : Params) (m m' : Session) (r : Response) :
    perform hw .step m = .next (m', r) ↔
      ∃ t, stepWith hw.aliasPolicy m.machine = .next t ∧ m' = ⟨t, .started⟩ ∧
        r = .redraw (redrawNeeded hw.redrawReturn m.machine t) := by
  unfold perform
  cases h : stepWith hw.aliasPolicy m.machine <;> simp [eq_comm]

/-- A `Load` on a fresh machine is the load of its state (R283 to R286). -/
theorem perform_load_fresh (hw : Params) (m : Session) (prog : List Byte) (h : m.phase = .fresh) :
    perform hw (.load prog) m = match m.machine.load? prog with
      | some s => .next (⟨s, .loaded⟩, .loadOk)
      | none => .next (m, .loadTooLarge) := by
  cases hl : m.machine.load? prog <;> simp [perform, h, hl]

/-- What every operation of a kind keeps, every schedule of that kind keeps. -/
theorem performAll_keeps (hw : Params) (P : Session → Prop) (kind : Operation → Prop)
    (keep : ∀ op m m' r, kind op → P m → perform hw op m = .next (m', r) → P m') (ops : List Operation) (m m' : Session)
    (hk : ∀ op ∈ ops, kind op) (hm : P m) (h : performAll hw ops m = .next m') : P m' := by
  induction ops generalizing m with
  | nil => cases h; exact hm
  | cons op ops ih =>
    rw [performAll] at h
    split at h
    · rename_i n r hp
      exact ih n (fun o ho => hk o (List.mem_cons_of_mem _ ho)) (keep op m n r (hk op List.mem_cons_self) hm hp) h
    · cases h
    · cases h

end Sys2Proof.Machine
end

