-- ==== Sys2Proof/Laws/PerInstr.lean ====
section
/-! SUPPORT. For every instruction: R99 can write it and reads it back, so it is well formed. One lemma per constructor. -/

namespace Sys2Proof.Laws.AsmRoundTrip

/-- The assembler line of an instruction reads back as that instruction (30_encoding.md R99). -/
def Statement (i : Instr) : Prop := i.wf = true

@[simp] theorem reg?_val (x : Reg) : reg? x.val = some x := by simp [reg?]

@[simp] theorem rows?_val (n : Fin 16) : rows? n.val = some n := by simp [rows?]

@[simp] theorem byte?_toNat (b : Byte) : byte? b.toNat = some b := by
  have := b.isLt
  simp [byte?, show b.toNat < 256 by omega]

@[simp] theorem addr?_toNat (a : Addr) : addr? a.toNat = some a := by
  have := a.isLt
  simp [addr?, show a.toNat < 4096 by omega]

/-- What `R99` writes of an instruction and reads back settles its statement. -/
theorem of_readOp (i : Instr) (h : readOp i.asmName i.asmOperands = some i) : Statement i := by simp [Statement, Instr.wf, h]

theorem read_reg (op : Reg → Instr) (x : Reg) : (reg? x.val).map op = some (op x) := by simp

theorem read_addr (op : Addr → Instr) (a : Addr) : (addr? a.toNat).map op = some (op a) := by simp

theorem read_reg_byte (op : Reg → Byte → Instr) (x : Reg) (b : Byte) :
    ((reg? x.val).bind fun r => (byte? b.toNat).map (op r)) = some (op x b) := by simp

theorem read_reg_reg (op : Reg → Reg → Instr) (x y : Reg) :
    ((reg? x.val).bind fun r => (reg? y.val).map (op r)) = some (op x y) := by simp

theorem read_reg_reg_rows (op : Reg → Reg → Fin 16 → Instr) (x y : Reg) (n : Fin 16) :
    ((reg? x.val).bind fun r => (reg? y.val).bind fun q => (rows? n.val).map (op r q)) = some (op x y n) := by simp

theorem cls : Statement .cls := of_readOp _ rfl

theorem ret : Statement .ret := of_readOp _ rfl

theorem jp (nnn : Addr) : Statement (.jp nnn) := of_readOp _ (read_addr .jp nnn)

theorem call (nnn : Addr) : Statement (.call nnn) := of_readOp _ (read_addr .call nnn)

theorem seImm (x : Reg) (nn : Byte) : Statement (.seImm x nn) := of_readOp _ (read_reg_byte .seImm x nn)

theorem sneImm (x : Reg) (nn : Byte) : Statement (.sneImm x nn) := of_readOp _ (read_reg_byte .sneImm x nn)

theorem seReg (x : Reg) (y : Reg) : Statement (.seReg x y) := of_readOp _ (read_reg_reg .seReg x y)

theorem ldImm (x : Reg) (nn : Byte) : Statement (.ldImm x nn) := of_readOp _ (read_reg_byte .ldImm x nn)

theorem addImm (x : Reg) (nn : Byte) : Statement (.addImm x nn) := of_readOp _ (read_reg_byte .addImm x nn)

theorem ldReg (x : Reg) (y : Reg) : Statement (.ldReg x y) := of_readOp _ (read_reg_reg .ldReg x y)

theorem or (x : Reg) (y : Reg) : Statement (.or x y) := of_readOp _ (read_reg_reg .or x y)

theorem and (x : Reg) (y : Reg) : Statement (.and x y) := of_readOp _ (read_reg_reg .and x y)

theorem xor (x : Reg) (y : Reg) : Statement (.xor x y) := of_readOp _ (read_reg_reg .xor x y)

theorem addReg (x : Reg) (y : Reg) : Statement (.addReg x y) := of_readOp _ (read_reg_reg .addReg x y)

theorem sub (x : Reg) (y : Reg) : Statement (.sub x y) := of_readOp _ (read_reg_reg .sub x y)

theorem shr (x : Reg) (y : Reg) : Statement (.shr x y) := of_readOp _ (read_reg_reg .shr x y)

theorem subn (x : Reg) (y : Reg) : Statement (.subn x y) := of_readOp _ (read_reg_reg .subn x y)

theorem shl (x : Reg) (y : Reg) : Statement (.shl x y) := of_readOp _ (read_reg_reg .shl x y)

theorem sneReg (x : Reg) (y : Reg) : Statement (.sneReg x y) := of_readOp _ (read_reg_reg .sneReg x y)

theorem ldI (nnn : Addr) : Statement (.ldI nnn) := of_readOp _ (read_addr .ldI nnn)

theorem jpV0 (nnn : Addr) : Statement (.jpV0 nnn) := of_readOp _ (read_addr .jpV0 nnn)

theorem rnd (x : Reg) (nn : Byte) : Statement (.rnd x nn) := of_readOp _ (read_reg_byte .rnd x nn)

theorem drw (x : Reg) (y : Reg) (n : Fin 16) : Statement (.drw x y n) := of_readOp _ (read_reg_reg_rows .drw x y n)

theorem skp (x : Reg) : Statement (.skp x) := of_readOp _ (read_reg .skp x)

theorem sknp (x : Reg) : Statement (.sknp x) := of_readOp _ (read_reg .sknp x)

theorem ldVxDt (x : Reg) : Statement (.ldVxDt x) := of_readOp _ (read_reg .ldVxDt x)

theorem ldVxK (x : Reg) : Statement (.ldVxK x) := of_readOp _ (read_reg .ldVxK x)

theorem ldDtVx (x : Reg) : Statement (.ldDtVx x) := of_readOp _ (read_reg .ldDtVx x)

theorem ldStVx (x : Reg) : Statement (.ldStVx x) := of_readOp _ (read_reg .ldStVx x)

theorem addI (x : Reg) : Statement (.addI x) := of_readOp _ (read_reg .addI x)

theorem ldF (x : Reg) : Statement (.ldF x) := of_readOp _ (read_reg .ldF x)

theorem ldB (x : Reg) : Statement (.ldB x) := of_readOp _ (read_reg .ldB x)

theorem stRegs (x : Reg) : Statement (.stRegs x) := of_readOp _ (read_reg .stRegs x)

theorem ldRegs (x : Reg) : Statement (.ldRegs x) := of_readOp _ (read_reg .ldRegs x)

end Sys2Proof.Laws.AsmRoundTrip
end

