-- ==== Sys2Proof/Laws/Step.lean ====
section
/-! SUPPORT. Everything one step can do (R41), and what placing an instruction word does. -/

namespace Sys2Proof.Machine

/-- The four things a step can be (R41, R46, R62, R230). -/
theorem step_cases (s : State) :
    (s.status = .faulted ∧ step s = .next s) ∨
    (s.status = .running ∧ ∃ f a, fetch s = .error (f, a) ∧ step s = .next (s.raise f a)) ∨
    (s.status = .running ∧ ∃ w i, fetch s = .ok w ∧ decode w = .ok i ∧ step s = exec i s) ∨
    (s.status = .running ∧ ∃ w why, fetch s = .ok w ∧ decode w = .error why ∧ step s = .next s.advance) := by
  unfold step stepWith
  cases hs : s.status with
  | faulted => exact .inl ⟨rfl, rfl⟩
  | running =>
    right
    cases hf : fetch s with
    | error e => obtain ⟨f, a⟩ := e; exact .inl ⟨rfl, f, a, rfl, rfl⟩
    | ok w =>
      right
      cases hd : decode w with
      | ok i => exact .inl ⟨rfl, w, i, rfl, hd, by simp [hd]⟩
      | error why => exact .inr ⟨rfl, w, why, rfl, hd, by simp [hd, execUnassigned, Config.aliasPolicy]⟩

/-- The fetch address is always one that can be fetched from. -/
theorem State.fetchPc_ready (s : State) : s.fetchPc.toNat % 2 = 0 ∧ s.fetchPc.toNat ≤ 4094 := by
  unfold State.fetchPc
  split
  · assumption
  · decide

/-- After placing a word, the next step fetches exactly it (memory in canonical form). -/
theorem fetch_withFetchWord (s : State) (w : Nat) (h : Memory.wf s.mem = true) (hw : w < 65536) :
    fetch (s.withFetchWord 16 w) = .ok (BitVec.ofNat 16 w) := by
  obtain ⟨hp, hb⟩ := s.fetchPc_ready
  have e : tableWordBytes 16 w = [hiByte (BitVec.ofNat 16 w), loByte (BitVec.ofNat 16 w)] := by
    rw [tableWordBytes, Nat.mod_eq_of_lt (by simpa using hw)]; rfl
  have hlen : s.fetchPc.toNat + (tableWordBytes 16 w).length ≤ memSize := by
    rw [e]; simp [memSize]; omega
  have r0 : (s.withFetchWord 16 w).byteAt s.fetchPc.toNat = hiByte (BitVec.ofNat 16 w) := by
    have := Memory.read_writeBytes_inside s.mem s.fetchPc.toNat (tableWordBytes 16 w) h hlen 0 (by simp [e])
    simpa [State.byteAt, State.withFetchWord, e] using this
  have r1 : (s.withFetchWord 16 w).byteAt (s.fetchPc.toNat + 1) = loByte (BitVec.ofNat 16 w) := by
    have := Memory.read_writeBytes_inside s.mem s.fetchPc.toNat (tableWordBytes 16 w) h hlen 1 (by simp [e])
    simpa [State.byteAt, State.withFetchWord, e] using this
  have hpc : (s.withFetchWord 16 w).pc = s.fetchPc := rfl
  rcases fetch_cases (s.withFetchWord 16 w) with ⟨h1, -⟩ | ⟨-, h2, -⟩ | ⟨-, -, h3⟩
  · rw [hpc] at h1; omega
  · rw [hpc] at h2; omega
  · rw [h3, hpc, r0, r1, wordOfBytes_bytes]

end Sys2Proof.Machine
end

