-- ==== Sys2Proof/Tests/Slice0.lean ====
section
/-! SUPPORT. Tests. Expected values come from spec/: the patterns of 30_encoding.md R95 and the vectors of 95_test_vectors.md,
whose section each test names. One step each, on a small state. The last part is a witness for every obligation with a
hypothesis: a state and operands that meet all its hypotheses together. -/

namespace Sys2Proof.Tests

open Sys2Proof Sys2Proof.Machine Sys2Proof.Claim

/-- The word run as the next instruction of `s` gives a next state with the property. -/
def runs (w : Nat) (s : State) (p : State → Bool) : Bool :=
  match step (s.withFetchWord 16 w) with
  | .next t => p t
  | .fault _ => false
  | .refused _ => false

/-- One instruction on `s` gives a next state with the property. -/
def does (i : Instr) (s : State) (p : State → Bool) : Bool :=
  match exec i s with
  | .next t => p t
  | .fault _ => false
  | .refused _ => false

/-- The reset state with some registers changed. -/
def regs (l : List (Nat × Byte)) : State := l.foldl (fun s p => s.setReg (Fin.ofNat 16 p.1) p.2) State.reset

/-- The reset state with `I`, some registers and bytes at `I` changed. -/
def atIndex (i : Word) (l : List (Nat × Byte)) (bytes : List Byte) : State :=
  { regs l with i := i, mem := Memory.writeBytes [] i.toNat bytes }

/-- The reset state with the given keys pressed and one register changed. -/
def withKeys (ks : List Nat) (x : Nat) (b : Byte) : State :=
  { regs [(x, b)] with keys := Vector.ofFn fun k : Fin 16 => ks.contains k.val }

/-- The reset state with a call stack of the given depth, every slot holding the same address. -/
def withStack (sp : Fin 17) (a : Word) : State := { State.reset with sp := sp, stk := Vector.replicate 16 a }

/-- A fault taken: code, information, and `PC` unmoved. -/
def faulted (code info pc : Nat) (t : State) : Bool :=
  t.status == .faulted && t.fcause.toNat == code && t.finfo.toNat == info && t.pc.toNat == pc

/-! ## Ill-formed lines are refused (R93, R99) -/

theorem test_wf_register : (AsmBody.op "LD" [.v 16, .num 0]).wf = false := by decide
theorem test_wf_second_register : (AsmBody.op "OR" [.v 1, .v 16]).wf = false := by decide
theorem test_wf_byte : (AsmBody.op "LD" [.v 1, .num 256]).wf = false := by decide
theorem test_wf_address : (AsmBody.op "JP" [.num 4096]).wf = false := by decide
theorem test_wf_rows : (AsmBody.op "DRW" [.v 1, .v 2, .num 16]).wf = false := by decide
theorem test_wf_indexed_jump_register : (AsmBody.op "JP" [.v 1, .num 0x300]).wf = false := by decide
theorem test_wf_name : (AsmBody.op "NOP" []).wf = false := by decide
theorem test_wf_operand_kind : (AsmBody.op "LD" [.dt, .num 3]).wf = false := by decide
theorem test_wf_operand_count : (AsmBody.op "CLS" [.v 0]).wf = false := by decide
theorem test_wf_data_word : (AsmBody.dw 65536).wf = false := by decide
theorem test_wf_data_byte : (AsmBody.db 256).wf = false := by decide
theorem test_wf_largest : (AsmBody.op "DRW" [.v 15, .v 15, .num 15]).wf = true := by decide

/-! ## Decoding: every constructor by a word written digit by digit from its pattern (R95) -/

theorem test_decode_cls : decode 0x00E0 = .ok .cls := by decide
theorem test_decode_ret : decode 0x00EE = .ok .ret := by decide
theorem test_decode_jp : decode 0x1ABC = .ok (.jp 0xABC) := by decide
theorem test_decode_call : decode 0x2DEF = .ok (.call 0xDEF) := by decide
theorem test_decode_seImm : decode 0x3A7F = .ok (.seImm 0xA 0x7F) := by decide
theorem test_decode_sneImm : decode 0x4B80 = .ok (.sneImm 0xB 0x80) := by decide
theorem test_decode_seReg : decode 0x5120 = .ok (.seReg 1 2) := by decide
theorem test_decode_ldImm : decode 0x6A42 = .ok (.ldImm 0xA 0x42) := by decide
theorem test_decode_addImm : decode 0x7105 = .ok (.addImm 1 0x05) := by decide
theorem test_decode_ldReg : decode 0x8120 = .ok (.ldReg 1 2) := by decide
theorem test_decode_or : decode 0x8341 = .ok (.or 3 4) := by decide
theorem test_decode_and : decode 0x8562 = .ok (.and 5 6) := by decide
theorem test_decode_xor : decode 0x8783 = .ok (.xor 7 8) := by decide
theorem test_decode_addReg : decode 0x89A4 = .ok (.addReg 9 0xA) := by decide
theorem test_decode_sub : decode 0x8BC5 = .ok (.sub 0xB 0xC) := by decide
theorem test_decode_shr : decode 0x8AB6 = .ok (.shr 0xA 0xB) := by decide
theorem test_decode_subn : decode 0x8DE7 = .ok (.subn 0xD 0xE) := by decide
theorem test_decode_shl : decode 0x812E = .ok (.shl 1 2) := by decide
theorem test_decode_sneReg : decode 0x9120 = .ok (.sneReg 1 2) := by decide
theorem test_decode_ldI : decode 0xA123 = .ok (.ldI 0x123) := by decide
theorem test_decode_jpV0 : decode 0xB300 = .ok (.jpV0 0x300) := by decide
theorem test_decode_rnd : decode 0xC10F = .ok (.rnd 1 0x0F) := by decide
theorem test_decode_drw : decode 0xD123 = .ok (.drw 1 2 3) := by decide
theorem test_decode_skp : decode 0xE59E = .ok (.skp 5) := by decide
theorem test_decode_sknp : decode 0xE6A1 = .ok (.sknp 6) := by decide
theorem test_decode_ldVxDt : decode 0xF407 = .ok (.ldVxDt 4) := by decide
theorem test_decode_ldVxK : decode 0xF30A = .ok (.ldVxK 3) := by decide
theorem test_decode_ldDtVx : decode 0xF215 = .ok (.ldDtVx 2) := by decide
theorem test_decode_ldStVx : decode 0xF118 = .ok (.ldStVx 1) := by decide
theorem test_decode_addI : decode 0xFB1E = .ok (.addI 0xB) := by decide
theorem test_decode_ldF : decode 0xF229 = .ok (.ldF 2) := by decide
theorem test_decode_ldB : decode 0xF333 = .ok (.ldB 3) := by decide
theorem test_decode_stRegs : decode 0xF155 = .ok (.stRegs 1) := by decide
theorem test_decode_ldRegs : decode 0xF965 = .ok (.ldRegs 9) := by decide

/-- Class A words of section 2.10. -/
theorem test_decode_alias :
    ([0x0000, 0x00FE, 0x5121, 0x9121, 0xE10E, 0xE111, 0xF108, 0xF117, 0xF175] : List Word).all
      (fun w => decide (decode w = .error .aliasWord)) = true := by decide

/-- Class U words of section 2.10. -/
theorem test_decode_unknown :
    ([0x00E1, 0x0123, 0x0FFF, 0x8128, 0x812F, 0xE000, 0xE19F, 0xF000, 0xF10B, 0xF156] : List Word).all
      (fun w => decide (decode w = .error .unknownWord)) = true := by decide

/-- Section 2.1: the byte at the lower address is the high one. -/
theorem test_fetch_order : decodeBytes [0xD1, 0x23, 0x77] = .ok (.drw 1 2 3, [0x77]) := by decide

theorem test_decode_truncated : decodeBytes [0xD1] = .error .truncated := by decide

theorem test_table_word : decodeTableWord 16 0xD123 = some (.drw 1 2 3) := by decide

/-- The table has 34 rows. -/
theorem test_opcode_map_length : opcodeMap.length = 34 := by decide

/-- No two rows of the table overlap: where both masks look, some digit differs. -/
theorem test_opcode_map_rows_are_disjoint :
    opcodeMap.Pairwise (fun r q => r.pattern &&& q.mask ≠ q.pattern &&& r.mask) := by decide

/-! ## One step each (section 2 of 95_test_vectors.md) -/

/-- Section 2.2. -/
theorem test_cls : runs 0x00E0 { regs [(15, 0xAA)] with fb := setPixel blankFrame 31 63 true }
    (fun t => !pixel t.fb 31 63 && !pixel t.fb 3 4 && t.dirty && t.pc == 0x202 && t.reg 15 == 0xAA) = true := by decide

/-- Section 2.2: the popped address plus 2. -/
theorem test_ret : does .ret { withStack 2 0x300 with pc := 0x400 }
    (fun t => t.pc == 0x302 && t.sp == 1 && t.stk[1] == 0x300) = true := by decide

/-- Section 2.2. -/
theorem test_ret_underflow : runs 0x00EE State.reset (faulted 2 0x200 0x200) = true := by decide

/-- Section 2.2. -/
theorem test_jp : runs 0x1ABC State.reset (fun t => t.pc == 0xABC) = true := by decide

/-- Section 2.2. -/
theorem test_call : does (.call 0xABC) { withStack 3 0 with pc := 0x456 }
    (fun t => t.pc == 0xABC && t.sp == 4 && t.stk[3] == 0x456 && t.stk[2] == 0) = true := by decide

/-- Section 2.2. -/
theorem test_call_overflow : runs 0x2300 (withStack 16 0x200)
    (fun t => faulted 1 0x200 0x200 t && t.sp == 16) = true := by decide

/-- Section 2.3. -/
theorem test_seImm : (runs 0x3142 (regs [(1, 0x42)]) (·.pc == 0x204) && runs 0x3142 (regs [(1, 0x43)]) (·.pc == 0x202)) = true := by
  decide

/-- Section 2.3. -/
theorem test_sneImm : (runs 0x4142 (regs [(1, 0x42)]) (·.pc == 0x202) && runs 0x4142 (regs [(1, 0x43)]) (·.pc == 0x204)) = true := by
  decide

/-- Section 2.3. -/
theorem test_seReg :
    (runs 0x5120 (regs [(1, 7), (2, 7)]) (·.pc == 0x204) && runs 0x5120 (regs [(1, 7), (2, 8)]) (·.pc == 0x202)) = true := by
  decide

/-- Section 2.3. -/
theorem test_sneReg :
    (runs 0x9120 (regs [(1, 7), (2, 7)]) (·.pc == 0x202) && runs 0x9120 (regs [(1, 7), (2, 8)]) (·.pc == 0x204)) = true := by
  decide

/-- Section 2.4. -/
theorem test_ldImm : runs 0x6A42 (regs [(10, 0x99), (15, 0xAA)])
    (fun t => t.reg 10 == 0x42 && t.reg 15 == 0xAA && t.pc == 0x202) = true := by decide

/-- Section 2.4: wraps, no carry flag. -/
theorem test_addImm_wraps : runs 0x7101 (regs [(1, 0xFF), (15, 0xAA)]) (fun t => t.reg 1 == 0 && t.reg 15 == 0xAA) = true := by
  decide

/-- Section 2.4: the sum in register 15. -/
theorem test_addImm_flag_register : runs 0x7F01 (regs [(15, 0xFF)]) (fun t => t.reg 15 == 0) = true := by decide

/-- Section 2.5, first row: V1 = 0xF3, V2 = 0x3C. -/
theorem test_ldReg : runs 0x8120 (regs [(1, 0xF3), (2, 0x3C)]) (fun t => t.reg 1 == 0x3C && t.reg 2 == 0x3C) = true := by decide

/-- Section 2.5. -/
theorem test_or : runs 0x8121 (regs [(1, 0xF3), (2, 0x3C), (15, 0xAA)])
    (fun t => t.reg 1 == 0xFF && t.reg 15 == 0xAA) = true := by decide

/-- Section 2.5. -/
theorem test_and : runs 0x8122 (regs [(1, 0xF3), (2, 0x3C), (15, 0xAA)])
    (fun t => t.reg 1 == 0x30 && t.reg 15 == 0xAA) = true := by decide

/-- Section 2.5. -/
theorem test_xor : runs 0x8123 (regs [(1, 0xF3), (2, 0x3C), (15, 0xAA)])
    (fun t => t.reg 1 == 0xCF && t.reg 15 == 0xAA) = true := by decide

/-- Section 2.5, row (0x7F, 0xC1). -/
theorem test_addReg : runs 0x8124 (regs [(1, 0x7F), (2, 0xC1)]) (fun t => t.reg 1 == 0x40 && t.reg 15 == 1) = true := by decide

/-- Section 2.5: register 15 as X, the carry remains. -/
theorem test_addReg_flag_register : runs 0x8F24 (regs [(15, 0x93), (2, 0x25)]) (fun t => t.reg 15 == 0) = true := by decide

/-- Section 2.5, row (0x05, 0x0A). -/
theorem test_sub : runs 0x8125 (regs [(1, 0x05), (2, 0x0A), (15, 0xAA)])
    (fun t => t.reg 1 == 0xFB && t.reg 15 == 0) = true := by decide

/-- Section 2.5: register 15 as X, the difference remains. -/
theorem test_sub_flag_register : runs 0x8F25 (regs [(15, 0x10), (2, 0x25)]) (fun t => t.reg 15 == 0xEB) = true := by decide

/-- Section 1, S3: the value from V2, the flag from the old V1. -/
theorem test_shr : runs 0x8126 (regs [(1, 0x04), (2, 0xB3), (15, 0xAA)])
    (fun t => t.reg 1 == 0x59 && t.reg 2 == 0xB3 && t.reg 15 == 0) = true := by decide

/-- Section 2.5: register 15 as Y, its old value shifted. -/
theorem test_shr_flag_register : runs 0x81F6 (regs [(1, 0x25), (15, 0x93)]) (fun t => t.reg 1 == 0x49 && t.reg 15 == 1) = true := by
  decide

/-- Section 2.5, row (0x05, 0x0A). -/
theorem test_subn : runs 0x8127 (regs [(1, 0x05), (2, 0x0A)]) (fun t => t.reg 1 == 0x05 && t.reg 15 == 1) = true := by decide

/-- Section 2.5: equal operands do not borrow. -/
theorem test_subn_equal : runs 0x8127 (regs [(1, 0x80), (2, 0x80)]) (fun t => t.reg 1 == 0 && t.reg 15 == 1) = true := by decide

/-- Section 2.5, row (0x80, 0x41). -/
theorem test_shl : runs 0x812E (regs [(1, 0x80), (2, 0x41)]) (fun t => t.reg 1 == 0x82 && t.reg 15 == 1) = true := by decide

/-- Section 2.5: register 15 as Y. -/
theorem test_shl_flag_register : runs 0x81FE (regs [(1, 0x25), (15, 0x93)]) (fun t => t.reg 1 == 0x26 && t.reg 15 == 0) = true := by
  decide

/-- Section 2.6. -/
theorem test_ldI : runs 0xA123 State.reset (fun t => t.i == 0x123 && t.pc == 0x202) = true := by decide

/-- Section 2.6: no 12-bit wrap. -/
theorem test_jpV0 : runs 0xBFFF (regs [(0, 0xFF)]) (fun t => t.pc == 0x10FE) = true := by decide

/-- Section 2.6: the draw AND-ed with the mask; with mask 0 it is 0 for every draw. -/
theorem test_rnd : (∃ t, exec (.rnd 1 0x0F) (regs [(1, 0x99)]) = .next t ∧ t.reg 1 = Config.rand 0 &&& 0x0F ∧ t.pc = 0x202) ∧
    (∃ t, exec (.rnd 1 0x00) (regs [(1, 0x99)]) = .next t ∧ t.reg 1 = 0) :=
  ⟨⟨_, rfl, rfl, rfl⟩, _, rfl, show Config.rand 0 &&& 0 = 0 from BitVec.and_zero⟩

/-- Section 2.7: columns wrap, bit 7 is the leftmost. -/
theorem test_drw_wraps : does (.drw 1 2 1) (atIndex 0x300 [(1, 63), (2, 35)] [0xC0])
    (fun t => pixel t.fb 3 63 && pixel t.fb 3 0 && !pixel t.fb 3 1 && t.reg 15 == 0 && t.dirty && t.pc == 0x202) = true := by
  decide

/-- Section 2.7: a set pixel is unset, and that is a collision. -/
theorem test_drw_collides : does (.drw 1 2 1) { atIndex 0x300 [] [0x80] with fb := setPixel blankFrame 0 0 true }
    (fun t => !pixel t.fb 0 0 && t.reg 15 == 1) = true := by decide

/-- Section 2.8. -/
theorem test_skp : (runs 0xE59E (withKeys [10] 5 0x0A) (·.pc == 0x204) && runs 0xE59E (withKeys [9, 11] 5 0x0A) (·.pc == 0x202)) =
    true := by decide

/-- Section 2.8: not reduced to key 0. -/
theorem test_skp_above_15 : runs 0xE59E (withKeys [0] 5 0x10) (faulted 6 0x10 0x200) = true := by decide

/-- Section 2.8. -/
theorem test_sknp : (runs 0xE5A1 (withKeys [10] 5 0x0A) (·.pc == 0x202) && runs 0xE5A1 (withKeys [] 5 0x0F) (·.pc == 0x204)) =
    true := by decide

/-- Section 2.8. -/
theorem test_sknp_above_15 : runs 0xE5A1 (withKeys [] 5 0xFF) (faulted 6 0xFF 0x200) = true := by decide

/-- Section 2.9. -/
theorem test_ldVxDt : runs 0xF407 { State.reset with dt := 0x3C } (fun t => t.reg 4 == 0x3C && t.dt == 0x3C) = true := by decide

/-- Section 2.9: no key, nothing changes; one key, its index. -/
theorem test_ldVxK :
    (runs 0xF30A (withKeys [] 3 0xAA) (fun t => t.reg 3 == 0xAA && t.pc == 0x200) &&
      runs 0xF30A (withKeys [15] 3 0xAA) (fun t => t.reg 3 == 0x0F && t.pc == 0x202)) = true := by decide

/-- Section 2.9: with keys 3 and 9 pressed, one of the two. -/
theorem test_ldVxK_two_keys : pickKey (withKeys [3, 9] 3 0xAA).keys = some 3 ∨ pickKey (withKeys [3, 9] 3 0xAA).keys = some 9 := by
  have h : pressedKeys (withKeys [3, 9] 3 0xAA).keys = [3, 9] := by decide
  unfold pickKey
  rw [h]
  generalize Config.keywaitChoice _ = c
  show some ([3, 9].getD (c % 2) 3) = some 3 ∨ some ([3, 9].getD (c % 2) 3) = some (9 : Key)
  rcases Nat.mod_two_eq_zero_or_one c with e | e <;> simp [e]

/-- Section 2.9. -/
theorem test_ldDtVx : runs 0xF215 (regs [(2, 0x3C)]) (fun t => t.dt == 0x3C && t.st == 0) = true := by decide

/-- Section 2.9. -/
theorem test_ldStVx : runs 0xF218 (regs [(2, 0x05)]) (fun t => t.st == 0x05 && t.dt == 0) = true := by decide

/-- Section 2.9: wraps modulo 65536, no flag. -/
theorem test_addI : runs 0xF11E { regs [(1, 0xFF), (15, 0xAA)] with i := 0xFFFF } (fun t => t.i == 0x00FE && t.reg 15 == 0xAA) =
    true := by decide

/-- Section 2.9: no mask on the register. -/
theorem test_ldF : (runs 0xF229 (regs [(2, 0x0F)]) (·.i == 0x9B) && runs 0xF229 (regs [(2, 0xFF)]) (·.i == 0x54B)) = true := by decide

/-- Section 2.9. -/
theorem test_ldB : runs 0xF333 { regs [(3, 0x9C)] with i := 0x300 }
    (fun t => t.loadBytes 0x300 3 == [1, 5, 6] && t.i == 0x300) = true := by decide

/-- Section 2.9: one byte too far, nothing stored. -/
theorem test_ldB_bounds : does (.ldB 3) { regs [(3, 123)] with i := 0xFFE }
    (fun t => faulted 5 0x1000 0x200 t && t.mem == []) = true := by decide

/-- Section 2.9. -/
theorem test_stRegs : runs 0xF255 { regs [(0, 0x10), (1, 0x11), (2, 0x12), (3, 0x13)] with i := 0x400 }
    (fun t => t.loadBytes 0x400 4 == [0x10, 0x11, 0x12, 0] && t.i == 0x403) = true := by decide

/-- Section 2.9: one byte too far, `I` unchanged. -/
theorem test_stRegs_bounds : does (.stRegs 15) { State.reset with i := 0xFF1 }
    (fun t => faulted 5 0x1000 0x200 t && t.i == 0xFF1) = true := by decide

/-- Section 2.9. -/
theorem test_ldRegs : runs 0xF165 (atIndex 0x400 [(2, 0x77)] [0xA0, 0xA1, 0xA2])
    (fun t => t.reg 0 == 0xA0 && t.reg 1 == 0xA1 && t.reg 2 == 0x77 && t.i == 0x402) = true := by decide

/-- Section 2.9. -/
theorem test_ldRegs_bounds : does (.ldRegs 0) { State.reset with i := 0x2000 } (faulted 5 0x2000 0x200) = true := by decide

/-- Section 2.10: a class A and a class U word. -/
theorem test_unassigned : (runs 0x0000 State.reset (· == { State.reset with pc := 0x202 }) &&
    runs 0x8128 (regs [(1, 9)]) (fun t => t.reg 1 == 9 && t.pc == 0x202)) = true := by decide

/-- Section 2.11. -/
theorem test_fetch_faults :
    (match step { State.reset with pc := 0xFFF } with | .next t => faulted 3 0xFFF 0xFFF t | _ => false) = true ∧
    (match step { State.reset with pc := 0x1000 } with | .next t => faulted 4 0x1000 0x1000 t | _ => false) = true := by decide

/-- Section 2.12. -/
theorem test_tick : ({ State.reset with dt := 255, st := 0 } : State).tick = { State.reset with dt := 254, st := 0 } := by decide

/-- R3, R68: another font, between glyph 0 and the zeros. -/
theorem test_other_font : ((State.resetWith fun _ => 0xAA).loadBytes 84 2, (State.resetWith fun _ => 0xAA).loadBytes 159 2) =
    ([0xF0, 0xAA], [0xAA, 0x00]) := by decide

/-- Section 2.13: one byte. -/
theorem test_boot : (boot? hardware.font [0x12]).map (fun s => s.loadBytes 0x200 2) = some [0x12, 0x00] := by decide

/-- Section 3, P5 with a label and a data word: `here: CALL here`, then `DW 0x220C`. -/
theorem test_assemble :
    assemble [⟨some "here", .op "CALL" [.sym "here"]⟩, ⟨none, .dw 0x220C⟩, ⟨none, .db 7⟩] = some [0x22, 0x00, 0x22, 0x0C, 7] := by
  decide

/-! ## Witnesses: the hypotheses of each obligation are met together -/

/-- `DecodedWordReencodes`, `DecoderAgreesWithOpcodeMap`. -/
theorem witness_decode : decode 0xFFFF = .error .unknownWord ∧ decode 0xDFFF = .ok (.drw 15 15 15) ∧
    OpcodeRow.selects ⟨"DRW", 0xD000, 0xF000⟩ 0xDFFF = true := by decide

/-- `UnassignedWordClasses`: a word in each line of R97's table, and the words next to the excluded ones. -/
theorem witness_unassigned_classes :
    decode 0x00F0 = .error .aliasWord ∧ decode 0x511F = .error .aliasWord ∧ decode 0x9111 = .error .aliasWord ∧
    decode 0xE08E = .error .aliasWord ∧ decode 0xF065 = .ok (.ldRegs 0) ∧ decode 0xF075 = .error .aliasWord ∧
    decode 0x00E1 = .error .unknownWord ∧ decode 0x8008 = .error .unknownWord ∧ decode 0xE0A2 = .error .unknownWord ∧
    decode 0xF06F = .error .unknownWord := by decide

/-- `StepRunsDecodedInstruction`: at the last address a word can be fetched from. -/
theorem witness_step_runs_decoded :
    let s : State := { State.reset with pc := 4094, mem := Memory.writeBytes [] 4094 [0x60, 0x00] }
    s.status = .running ∧ s.pc.toNat % 2 = 0 ∧ s.pc.toNat ≤ 4094 ∧ (Instr.ldImm 0 0).wf = true ∧
      decodeBytes [s.byteAt s.pc.toNat, s.byteAt (s.pc.toNat + 1)] = .ok (.ldImm 0 0, []) := by decide

/-- `UnassignedWordIsNoOp`, `StrictPolicyRefusesAliasWordsOnly`: a class A word. -/
theorem witness_unassigned_word :
    State.reset.status = .running ∧ fetch State.reset = .ok 0x0000 ∧ decode 0x0000 = .error .aliasWord := by
  refine ⟨?_, ?_, ?_⟩ <;> rfl

/-- `StrictPolicyRefusesAliasWordsOnly`, second clause: no alias word at `PC`. -/
theorem witness_strict_policy_other :
    let s : State := { State.reset with mem := Memory.writeBytes [] 512 [0x81, 0x28] }
    s.status = .running ∧ fetch s = .ok 0x8128 ∧ decode 0x8128 ≠ .error .aliasWord := by
  refine ⟨?_, ?_, ?_⟩ <;> decide

/-- `FetchFaultsComeFirst`: 4095 is odd, 4096 even. -/
theorem witness_fetch_faults :
    (let s : State := { State.reset with pc := 4095 }; s.status = .running ∧ s.pc.toNat % 2 = 1) ∧
    (let s : State := { State.reset with pc := 4096 }; s.status = .running ∧ s.pc.toNat % 2 = 0 ∧ 4096 ≤ s.pc.toNat) := by decide

/-- `FaultedMachineStaysFaulted`: a step, a tick and a key on a FAULTED machine. -/
theorem witness_faulted_machine :
    let m : Session := ⟨State.reset.raise .stackUnderflow 512, .started⟩
    let ops : List Operation := [.step, .tick, .setKey 3 true]
    (∀ op ∈ ops, op ≠ .reset ∧ ∀ prog, op ≠ .load prog) ∧ m.machine.status = .faulted ∧
      ∃ m', performAll hardware ops m = .next m' := by
  refine ⟨?_, rfl, ⟨_, rfl⟩⟩
  intro op h
  simp only [List.mem_cons, List.not_mem_nil, or_false] at h
  rcases h with rfl | rfl | rfl <;> simp

/-- A state inside a subroutine, one call deep, on a return. -/
def inSubroutine : State := { withStack 1 0x204 with pc := 0x300, mem := Memory.writeBytes [] 0x300 [0x00, 0xEE] }

theorem inSubroutine_inv : Inv inSubroutine where
  memory := by decide
  pcBound := by decide
  returns := by decide
  runningStatus := by decide
  faultedStatus := by decide

/-- `StepKeepsInvariant`, `PcFollowsItsTable`, `EveryStepHasANextState`: a step from a state that meets the invariant. -/
theorem witness_step_invariant : Inv inSubroutine ∧ inSubroutine.status = .running ∧
    ∃ t, step inSubroutine = .next t ∧ t.status = .running := ⟨inSubroutine_inv, rfl, _, rfl, rfl⟩

/-- `StepKeepsInvariant` on a step that faults: a second return with nothing to return to. -/
theorem witness_step_invariant_fault :
    Inv { inSubroutine with sp := 0 } ∧ ∃ t, step { inSubroutine with sp := 0 } = .next t ∧ t.status = .faulted :=
  ⟨⟨by decide, by decide, by decide, by decide, by decide⟩, _, rfl, rfl⟩

/-- `OperationsKeepInvariant`: a schedule with every kind of operation. -/
theorem witness_operations_invariant :
    ∃ m', performAll hardware [.step, .tick, .setKey 2 true, .clearDirty, .readFrame, .reset, .load [0x12, 0x00], .step]
      ⟨inSubroutine, .started⟩ = .next m' := ⟨_, rfl⟩

/-- `RetReturnsPastTheCall`: one entry, sixteen entries, none. -/
theorem witness_ret : (withStack 1 0x204).sp.val = (0 : Fin 16).val + 1 ∧ (withStack 16 0x204).sp.val = (15 : Fin 16).val + 1 ∧
    State.reset.sp.val = 0 := by decide

/-- `CallPushesItsOwnAddress`: none, fifteen entries, sixteen. -/
theorem witness_call : State.reset.sp.val = (0 : Fin 16).val ∧ (withStack 15 0x204).sp.val = (15 : Fin 16).val ∧
    (withStack 16 0x204).sp.val = 16 := by decide

/-- `JumpsSetPc`: a jump to its own address. -/
theorem witness_jump_to_itself : (0x200 : Addr).toNat = State.reset.pc.toNat := by decide

/-- `ReturnComesBackAfterTheCall`: the last free slot. -/
theorem witness_call_return : (withStack 15 0x204).sp.val < 16 ∧
    ∃ t, exec (.call 0x300) (withStack 15 0x204) = .next t ∧ t.sp = t.sp ∧ t.stk = t.stk := ⟨by decide, _, rfl, rfl, rfl⟩

/-- `AddSetsCarry`, `SubtractSetsNoBorrow`, `ShiftsTakeValueFromYFlagFromX`: `X` other than 15; `Register15AsOperand`: each of
its operations answers. -/
theorem witness_register_15 : (14 : Reg) ≠ 15 ∧
    (∃ t, exec (.addReg 15 14) (regs [(14, 0x25), (15, 0x93)]) = .next t) ∧
    (∃ t, exec (.addReg 14 15) (regs [(14, 0x25), (15, 0x93)]) = .next t) ∧
    (∃ t, exec (.sub 14 15) (regs [(14, 0x25), (15, 0x93)]) = .next t) ∧
    (∃ t, exec (.shr 14 15) (regs [(14, 0x25), (15, 0x93)]) = .next t) ∧
    (∃ t, exec (.subn 14 15) (regs [(14, 0x25), (15, 0x93)]) = .next t) ∧
    (∃ t, exec (.shl 14 15) (regs [(14, 0x25), (15, 0x93)]) = .next t) :=
  ⟨by decide, ⟨_, rfl⟩, ⟨_, rfl⟩, ⟨_, rfl⟩, ⟨_, rfl⟩, ⟨_, rfl⟩, ⟨_, rfl⟩⟩

/-- `DrawFlipsSelectedPixels`, `DrawTwiceRestoresTheFrame`: fifteen rows that end at 4095, and no rows with `I` outside
memory. -/
theorem witness_draw_in_range : InRange { State.reset with i := 0xFF1 } (15 : Fin 16).val ∧
    InRange { State.reset with i := 0xFFFF } (0 : Fin 16).val := by
  exact ⟨.inr (by decide), .inl (by decide)⟩

/-- `DrawFlipsSelectedPixels`: a selected pixel that is set, and a draw that selects none. -/
theorem witness_draw_selects :
    (let s : State := { atIndex 0x300 [(1, 63)] [0xC0] with fb := setPixel blankFrame 0 0 true }; InRange s (1 : Fin 16).val ∧ Selected s 1 2 1 0 0 ∧ pixel s.fb 0 0 = true) ∧
    (∀ r c, ¬ Selected State.reset 1 2 0 r c) := by
  refine ⟨⟨.inr (by decide), ⟨0, 1, by decide, by decide, by decide, by decide, by decide⟩, by decide⟩, ?_⟩
  rintro r c ⟨row, col, h, -⟩
  exact absurd h (by simp)

/-- `DrawTwiceRestoresTheFrame`: a draw in range answers. -/
theorem witness_draw_twice : InRange (atIndex 0x300 [] [0x80]) (1 : Fin 16).val ∧
    ∃ t, exec (.drw 1 2 1) (atIndex 0x300 [] [0x80]) = .next t := ⟨.inr (by decide), _, rfl⟩

/-- `DataBoundsIsPrecise`: no rows, and the first range of each instruction that passes 4095. -/
theorem witness_data_bounds : (0 : Fin 16).val = 0 ∧
    (let s : State := { State.reset with i := 0xFF2 }; (15 : Fin 16).val ≠ 0 ∧ s.i.toNat + (15 : Fin 16).val - 1 > 4095) ∧
    (let s : State := { State.reset with i := 0xFFE }; s.i.toNat + 2 > 4095) ∧
    (let s : State := { State.reset with i := 0xFF1 }; s.i.toNat + (15 : Reg).val > 4095) := by decide

/-- `KeySkipsReadTheKey`: 15 is a key, 16 is not. -/
theorem witness_key_skips : (State.reg (withKeys [15] 5 15) 5).toNat = (15 : Key).val ∧
    (State.reg (withKeys [0] 5 16) 5).toNat > 15 := by decide

/-- `KeyWaitStoresAPressedKey`: no key; one key; two keys. -/
theorem witness_key_wait : (∀ k, (withKeys [] 3 0).key k = false) ∧ (∃ k, (withKeys [3, 9] 3 0).key k = true) ∧
    (∀ l, (withKeys [15] 3 0).key l = true ↔ l = 15) := by
  exact ⟨by decide, ⟨3, by decide⟩, by decide⟩

/-- `DecimalDigitsStored`: the three last bytes. -/
theorem witness_decimal_digits :
    Memory.wf ({ State.reset with i := 0xFFD } : State).mem = true ∧ ({ State.reset with i := 0xFFD } : State).i.toNat + 2 ≤ 4095 := by
  decide

/-- `RegistersStored`, `RegistersLoaded`: sixteen bytes that end at 4095. -/
theorem witness_block_transfer :
    Memory.wf ({ State.reset with i := 0xFF0 } : State).mem = true ∧
      ({ State.reset with i := 0xFF0 } : State).i.toNat + (15 : Reg).val ≤ 4095 := by decide

/-- `StoreThenLoadRestoresRegisters`: a store, and a state with its memory and the old `I`. -/
theorem witness_store_then_load :
    let s := atIndex 0x400 [(0, 1), (1, 2)] [9]
    Memory.wf s.mem = true ∧ s.i.toNat + (1 : Reg).val ≤ 4095 ∧
      ∃ t, exec (.stRegs 1) s = .next t ∧ ∃ u : State, u.mem = t.mem ∧ u.i = s.i :=
  ⟨by decide, by decide, _, rfl, { State.reset with mem := _, i := _ }, rfl, rfl⟩

/-- `NextFetchSeesTheStore`: FX55 over the last slot from its first byte, FX33 from two bytes before it on, and FX55 far from it. -/
theorem witness_next_fetch :
    (let s : State := { State.reset with pc := 4092, i := 4094, mem := Memory.writeBytes [] 4092 [0xF1, 0x55] };
      Memory.wf s.mem = true ∧ s.status = .running ∧ s.pc.toNat + 2 ≤ 4094 ∧ fetch s = .ok (encode (.stRegs 1)) ∧
        s.i.toNat + (1 : Reg).val ≤ 4095 ∧ s.i.toNat + 0 = s.pc.toNat + 2 ∧ s.i.toNat + 1 = s.pc.toNat + 3) ∧
    (let s : State := { State.reset with pc := 4092, i := 4092, mem := Memory.writeBytes [] 4092 [0xF1, 0x33] };
      Memory.wf s.mem = true ∧ s.status = .running ∧ fetch s = .ok (encode (.ldB 1)) ∧ s.i.toNat + 2 ≤ 4095 ∧
        s.i.toNat + 2 = s.pc.toNat + 2 ∧ s.i.toNat + 3 ≤ s.pc.toNat + 3) ∧
    (let s : State := { State.reset with i := 0, mem := Memory.writeBytes [] 512 [0xF1, 0x55] };
      fetch s = .ok (encode (.stRegs 1)) ∧ s.i.toNat + 2 ≤ s.pc.toNat + 2) :=
  ⟨⟨by decide, rfl, by decide, rfl, by decide, by decide, by decide⟩, ⟨by decide, rfl, rfl, by decide, by decide, by decide⟩,
    rfl, by decide⟩

/-- `EachPieceHasOnlyItsWriters`: an instruction that is in none of the lists but that of registers. -/
theorem witness_each_piece : (∃ t, exec (.ldImm 3 0x42) State.reset = .next t) ∧ ¬ MayWriteReg (.ldImm 3 0x42) 4 ∧
    (∀ nnn, Instr.ldImm 3 0x42 ≠ .ldI nnn) ∧
    (∀ x, Instr.ldImm 3 0x42 ≠ .addI x ∧ Instr.ldImm 3 0x42 ≠ .ldF x ∧ Instr.ldImm 3 0x42 ≠ .stRegs x ∧
      Instr.ldImm 3 0x42 ≠ .ldRegs x) ∧ (∀ nnn, Instr.ldImm 3 0x42 ≠ .call nnn) ∧ Instr.ldImm 3 0x42 ≠ .ret ∧
    (∀ x, Instr.ldImm 3 0x42 ≠ .ldDtVx x) ∧ (∀ x, Instr.ldImm 3 0x42 ≠ .ldStVx x) ∧
    (∀ x, Instr.ldImm 3 0x42 ≠ .ldB x) ∧ Instr.ldImm 3 0x42 ≠ .cls ∧ (∀ x y n, Instr.ldImm 3 0x42 ≠ .drw x y n) ∧
    (∀ x nn, Instr.ldImm 3 0x42 ≠ .rnd x nn) ∧ (∀ x, Instr.ldImm 3 0x42 ≠ .skp x ∧ Instr.ldImm 3 0x42 ≠ .sknp x) := by
  refine ⟨⟨_, rfl⟩, ?_, ?_⟩ <;> simp [MayWriteReg]

/-- `TickCountsDown`: three ticks. -/
theorem witness_ticks : ∃ m, performAll hardware (List.replicate 3 .tick) ⟨{ State.reset with dt := 2 }, .started⟩ = .next m := ⟨_, rfl⟩

/-- `LoadCopiesOrChangesNothing`: the largest program, and one byte more. -/
theorem witness_load_lengths : (Session.created hardware).phase = .fresh ∧ Memory.wf (Session.created hardware).machine.mem = true ∧
    (List.replicate 3583 (0 : Byte)).length ≤ 3583 ∧ (List.replicate 3584 (0 : Byte)).length > 3583 := by
  rw [List.length_replicate, List.length_replicate]
  refine ⟨rfl, rfl, ?_⟩
  decide

/-- `LoadOnlyOnAFreshMachine`: a `Load` that succeeded, a `Tick`, and a `ReadFrame` on a machine that is not fresh. -/
theorem witness_load_once :
    (∃ m', perform hardware (.load [0x12]) (Session.created hardware) = .next (m', .loadOk)) ∧
    (∃ m', perform hardware .tick (Session.created hardware) = .next (m', .done)) ∧
    (∃ m' r, perform hardware .readFrame ⟨State.reset, .started⟩ = .next (m', r)) ∧ Phase.started ≠ .fresh ∧
    Operation.tick ≠ .reset ∧ Operation.tick ≠ .readFrame ∧ Response.loadOk ≠ .loadTooLarge :=
  ⟨⟨_, rfl⟩, ⟨_, rfl⟩, ⟨_, _, rfl⟩, by decide, by decide, by decide, by decide⟩

/-- `ClsClearsEveryPixel`, its last clause. -/
theorem witness_cls_step :
    (State.reset.withFetchWord 16 0x00E0).status = .running ∧ fetch (State.reset.withFetchWord 16 0x00E0) = .ok 0x00E0 :=
  ⟨rfl, rfl⟩

/-- `CollaboratorOperations`, its last clause: a step with `DIRTY` set. -/
theorem witness_other_operation :
    (∃ m, perform hardware .step ⟨{ State.reset with dirty := true }, .started⟩ = .next m) ∧ Operation.step ≠ .reset ∧
      Operation.step ≠ .clearDirty ∧ ∀ j c, Operation.step ≠ .setKey j c := by
  refine ⟨⟨_, rfl⟩, ?_, ?_, ?_⟩ <;> simp

/-- `DirtyProtocol`: a step that draws, one that does not, and a schedule that clears nothing. -/
theorem witness_dirty :
    drew (State.reset.withFetchWord 16 0x00E0) = true ∧ drew State.reset = false ∧ (∃ t, step State.reset = .next t) ∧
    (∃ t, step (State.reset.withFetchWord 16 0x00E0) = .next t) ∧
    (∀ op ∈ [Operation.step, .readFrame], op ≠ .clearDirty ∧ op ≠ .reset) ∧
    (∃ m', performAll hardware [.step, .readFrame] ⟨{ State.reset with dirty := true }, .started⟩ = .next m') :=
  ⟨by decide, by decide, ⟨_, rfl⟩, ⟨_, rfl⟩, by decide, ⟨_, rfl⟩⟩

/-- `RedrawNeededByMode`: 00E0; DXYN that ends RUNNING; a word that does not draw and an unassigned one; a step that faults. -/
theorem witness_redraw :
    (let s := State.reset.withFetchWord 16 0x00E0; s.status = .running ∧ fetch s = .ok 0x00E0 ∧
      decode 0x00E0 = .ok .cls ∧ ∃ t, stepWith hardware.aliasPolicy s = .next t) ∧
    (let s := State.reset.withFetchWord 16 0xD120; s.status = .running ∧ fetch s = .ok 0xD120 ∧
      decode 0xD120 = .ok (.drw 1 2 0) ∧ ∃ t, stepWith hardware.aliasPolicy s = .next t ∧ t.status = .running) ∧
    (decode 0x8128 ≠ .ok .cls ∧ ∀ x y n, decode 0x8128 ≠ .ok (.drw x y n)) ∧
    (decode 0x6101 ≠ .ok .cls ∧ ∀ x y n, decode 0x6101 ≠ .ok (.drw x y n)) ∧
    (∃ t, stepWith hardware.aliasPolicy { State.reset with pc := 1 } = .next t ∧ t.status = .faulted) := by
  have unassigned : decode 0x8128 = .error .unknownWord := by decide
  have load : decode 0x6101 = .ok (.ldImm 1 1) := by decide
  refine ⟨⟨rfl, rfl, rfl, _, rfl⟩, ⟨rfl, rfl, rfl, _, rfl, rfl⟩, ?_, ?_, _, rfl, rfl⟩
  · rw [unassigned]; simp
  · rw [load]; simp

/-- `OperationsKeepInvariant`, `RedrawNeededByMode` with other arguments than the defaults: under the strict policy the `Step`
operation on an alias word is refused, on another word it answers. -/
theorem witness_other_arguments :
    let hw : Params := ⟨fun _ => 0xAA, .refuse, .pulse⟩
    perform hw .step ⟨State.reset, .loaded⟩ = .refused (.aliasWord 0x0000) ∧
      ∃ m, perform hw .step ⟨State.reset.withFetchWord 16 0x6101, .loaded⟩ = .next (m, .redraw false) :=
  ⟨rfl, _, rfl⟩

/-- `QuiescentExactlyAtSelfJumps`, `FixedPointsOfStep`: a self-jump, an idle key wait, and neither. -/
theorem witness_fixed_points : (State.reset.withFetchWord 16 0x1200).selfJump = true ∧
    (State.reset.withFetchWord 16 0xF30A).idleKeyWait = true ∧ State.reset.selfJump = false ∧
    State.reset.idleKeyWait = false := by decide

/-- `EqualBytesEqualMemory`: the last byte of memory, written and written back. -/
theorem witness_equal_memories : Memory.wf (Memory.write [] 4095 7) = true ∧
    Memory.write (Memory.write [] 4095 7) 4095 0 = [] := by decide

/-- `ByteWiseStoresMeetTheRangeCheck`: the last byte, and one byte more. -/
theorem witness_bytewise : 4095 + ([1] : List Byte).length ≤ 4096 ∧ ([1, 2] : List Byte) ≠ [] ∧
    4095 + ([1, 2] : List Byte).length > 4096 := by decide

/-- `DigitAddressesFindTheirGlyphs`: the first and the last digit, with the default font, and digit 1 with another. -/
theorem witness_digits : State.reset.mem = (State.resetWith hardware.font).mem ∧ (State.reset.reg 2).toNat = 0 ∧
    ((regs [(2, 15)]).reg 2).toNat < 16 ∧ (regs [(2, 15)]).mem = (State.resetWith hardware.font).mem ∧
    ((regs [(2, 15)]).reg 2).toNat = (74 : Fin 75).val / 5 + 1 ∧
    ({ regs [(2, 1)] with mem := (State.resetWith fun _ => 0xAA).mem } : State).mem = (State.resetWith fun _ => 0xAA).mem := by
  refine ⟨rfl, rfl, by decide, rfl, by decide, rfl⟩

/-- `SoundTimerIsNeverRead`: a step that writes the sound timer. -/
theorem witness_sound_timer : ∃ t, step (State.reset.withFetchWord 16 0xF218) = .next t := ⟨_, rfl⟩

/-- `StaleStackSlotsAreInvisible`: one entry in use, the others differ. -/
theorem witness_stale_slots :
    let t : State := { inSubroutine with stk := inSubroutine.stk.set 1 0xBEEF }
    SameButStaleSlots inSubroutine t ∧ t ≠ inSubroutine ∧ ∃ s', step inSubroutine = .next s' :=
  ⟨⟨rfl, by decide⟩, by decide, _, rfl⟩

end Sys2Proof.Tests
end

/-! PROOFS. The value of `PC` after a step that does not fault (10_state.md R42): one lemma per shape of an arm of `exec`, then one
case per instruction. -/

namespace Sys2Proof.Machine

open Sys2Proof Sys2Proof.Claim

section
variable {s t u : State}

/-- A fault that is taken does not leave the machine RUNNING (R243). -/
theorem not_running_of_raise {f : Fault} {a : Nat} (h : (.next (s.raise f a) : Result) = .next t) : t.status ≠ .running := by
  cases h
  simp

/-- An update that leaves `PC`, then the default advance. -/
theorem advanced_of_next_advance (h : (.next u.advance : Result) = .next t) (hpc : u.pc = s.pc) : Advanced s t := by
  cases h
  rw [Advanced, State.advance_pc_toNat, hpc]

theorem pc_of_next_skipIf {c : Bool} (h : (.next (s.skipIf c) : Result) = .next t) :
    t.pc.toNat = (s.pc.toNat + if c then 4 else 2) % 65536 := by
  cases h
  exact s.skipIf_pc_toNat c

theorem pc_of_next_skipIf_not {c : Bool} (h : (.next (s.skipIf !c) : Result) = .next t) :
    t.pc.toNat = (s.pc.toNat + if c then 2 else 4) % 65536 := by
  rw [pc_of_next_skipIf h]
  cases c <;> rfl

/-- The bounds check of an instruction that did not fault went on to its effects (R65). -/
theorem withRange_eq_next_of_running {n : Nat} {go : Result} (h : s.withRange n go = .next t) (ht : t.status = .running) :
    go = .next t := by
  obtain ⟨-, e⟩ | ⟨-, e⟩ := s.withRange_cases n go
  · exact absurd ht (not_running_of_raise (e ▸ h))
  · exact e ▸ h

theorem execRet_pc (h : execRet s = .next t) (ht : t.status = .running) :
    ∃ j : Fin 16, s.sp.val = j.val + 1 ∧ t.pc.toNat = (s.stk[j].toNat + 2) % 65536 := by
  unfold execRet at h
  split at h
  next a u hpop =>
    obtain ⟨j, hsp, rfl, -, -⟩ := s.pop?_some u a hpop
    cases h
    exact ⟨j, hsp, by simp⟩
  next => exact absurd ht (not_running_of_raise h)

theorem execCall_pc {nnn : Addr} (h : execCall nnn s = .next t) (ht : t.status = .running) :
    t.pc.toNat = nnn.toNat ∧ ∃ j : Fin 16, s.sp.val = j.val ∧ t.stk[j] = s.pc := by
  unfold execCall at h
  split at h
  next u hpush =>
    obtain ⟨hsp, -, hstk, -⟩ := s.push?_some u s.pc hpush
    cases h
    exact ⟨addrWord_toNat nnn, ⟨s.sp.val, hsp⟩, rfl, by simpa using hstk ⟨s.sp.val, hsp⟩⟩
  next => exact absurd ht (not_running_of_raise h)

theorem execSkp_pc {x : Reg} (h : execSkp x s = .next t) (ht : t.status = .running) :
    ∃ k : Key, (s.reg x).toNat = k.val ∧ t.pc.toNat = (s.pc.toNat + if s.keys[k] then 4 else 2) % 65536 := by
  unfold execSkp at h
  split at h
  next k hk => exact ⟨k, (keyIndex_some _ k).1 hk, pc_of_next_skipIf h⟩
  next => exact absurd ht (not_running_of_raise h)

theorem execSknp_pc {x : Reg} (h : execSknp x s = .next t) (ht : t.status = .running) :
    ∃ k : Key, (s.reg x).toNat = k.val ∧ t.pc.toNat = (s.pc.toNat + if s.keys[k] then 2 else 4) % 65536 := by
  unfold execSknp at h
  split at h
  next k hk => exact ⟨k, (keyIndex_some _ k).1 hk, pc_of_next_skipIf_not h⟩
  next => exact absurd ht (not_running_of_raise h)

/-- FX0A stays where it is without a pressed key, and goes on with one (R201). -/
theorem execLdVxK_pc {x : Reg} (h : execLdVxK x s = .next t) :
    ((∀ k : Key, s.keys[k] = false) → t.pc = s.pc) ∧ ((∃ k : Key, s.keys[k] = true) → Advanced s t) := by
  unfold execLdVxK at h
  split at h
  next hnone =>
    cases h
    refine ⟨fun _ => rfl, fun ⟨k, hk⟩ => ?_⟩
    simp [(pickKey_none s.keys).1 hnone k] at hk
  next k hsome =>
    refine ⟨fun hno => ?_, fun _ => advanced_of_next_advance h rfl⟩
    simpa [hno k] using pickKey_some s.keys k hsome

/-- Every instruction that does not fault leaves in `PC` the value its kind names (the table of R42). -/
theorem exec_pcAfter {i : Instr} (h : exec i s = .next t) (ht : t.status = .running) : PcAfter i s t := by
  cases i with
  | jp nnn => cases h; exact addrWord_toNat nnn
  | jpV0 nnn => cases h; exact s.indexedTarget_toNat nnn
  | call nnn => exact execCall_pc h ht
  | ret => exact execRet_pc h ht
  | seImm x nn => simpa [PcAfter] using pc_of_next_skipIf h
  | sneImm x nn => simpa [PcAfter] using pc_of_next_skipIf h
  | seReg x y => simpa [PcAfter] using pc_of_next_skipIf h
  | sneReg x y => simpa [PcAfter] using pc_of_next_skipIf h
  | skp x => exact execSkp_pc h ht
  | sknp x => exact execSknp_pc h ht
  | ldVxK x => exact execLdVxK_pc h
  | drw | ldB | stRegs | ldRegs => exact advanced_of_next_advance (withRange_eq_next_of_running h ht) rfl
  | cls | ldImm | addImm | ldReg | or | and | xor | addReg | sub | shr | subn | shl | ldI | rnd | ldVxDt | ldDtVx | ldStVx
  | addI | ldF => exact advanced_of_next_advance h rfl

end

/-- Settles O42: a RUNNING machine's step that ends RUNNING is a decoded instruction, whose `PC` `exec_pcAfter` gives, or the
advance of an unassigned word. -/
theorem pcFollowsItsTable : Obligations.PcFollowsItsTable := by
  intro s t hs h ht
  obtain ⟨hf, -⟩ | ⟨-, f, a, -, e⟩ | ⟨-, w, i, hw, hd, e⟩ | ⟨-, w, why, hw, hd, e⟩ := step_cases s
  · cases hs.symm.trans hf
  · exact absurd ht (not_running_of_raise (e ▸ h))
  · refine ⟨w, hw, fun j hj => ?_, fun hn => absurd hd (hn i)⟩
    cases hd.symm.trans hj
    exact exec_pcAfter (e ▸ h) ht
  · exact ⟨w, hw, fun j hj => absurd (hd.symm.trans hj) nofun, fun _ => advanced_of_next_advance (e ▸ h) rfl⟩

end Sys2Proof.Machine

/-! PROOFS. The fields of a word (30_encoding.md R91, R92): how the wide fields are made of the digits, and the word put
together from its fields. -/

namespace Sys2Proof

/-- `NN` is the digits `Y N`. -/
theorem fields_nn_toNat_eq_digits (w : Word) :
    (fields w).nn.toNat = (fields w).y.toNat * 16 + (fields w).n.toNat := by
  obtain ⟨-, -, hy, hn, hnn, -⟩ := fields_toNat w
  omega

/-- `NNN` is the digit `X` followed by `NN`. -/
theorem fields_nnn_toNat_eq_x_nn (w : Word) :
    (fields w).nnn.toNat = (fields w).x.toNat * 256 + (fields w).nn.toNat := by
  obtain ⟨-, hx, -, -, hnn, hnnn⟩ := fields_toNat w
  omega

theorem fields_f_nnn_recombine (w : Word) : (fields w).f.toNat * 4096 + (fields w).nnn.toNat = w.toNat := by
  obtain ⟨hf, -, -, -, -, hnnn⟩ := fields_toNat w
  omega

theorem fields_digits_recombine (w : Word) :
    (fields w).f.toNat * 4096 + (fields w).x.toNat * 256 + (fields w).y.toNat * 16 + (fields w).n.toNat = w.toNat := by
  rw [← fields_f_nnn_recombine w, fields_nnn_toNat_eq_x_nn, fields_nn_toNat_eq_digits]
  simp only [Nat.add_assoc]

/-- Settles O4: each digit is its slice by `fields_toNat`; the wide fields and the word are made of the digits. -/
theorem fieldsAreSlicesOfTheWord : Obligations.FieldsAreSlicesOfTheWord := by
  refine ⟨fun w => ?_, by decide⟩
  obtain ⟨hf, hx, hy, hn, -, -⟩ := fields_toNat w
  exact ⟨hf, hx, hy, hn, fields_nn_toNat_eq_digits w, fields_nnn_toNat_eq_x_nn w, fields_f_nnn_recombine w,
    fields_digits_recombine w⟩

end Sys2Proof

/-! PROOFS. A word is put together again from the fields its instruction names, so the word an instruction is decoded from is its
encoding (30_encoding.md R92, R95). -/

namespace Sys2Proof

section
variable {w : Word} {i : Instr}

theorem wordXYN_fields (f n : Fin 16) (hf : (fields w).f.toNat = f.val) (hn : (fields w).n.toNat = n.val) :
    wordXYN f (nibble (fields w).x) (nibble (fields w).y) n = w := by
  have hw := fields_digits_recombine w
  apply BitVec.eq_of_toNat_eq
  simp only [wordXYN, nibble, BitVec.toNat_ofNat]
  omega

theorem wordNNN_fields (f : Fin 16) (hf : (fields w).f.toNat = f.val) : wordNNN f (fields w).nnn = w := by
  have hw := fields_f_nnn_recombine w
  apply BitVec.eq_of_toNat_eq
  simp only [wordNNN, BitVec.toNat_ofNat]
  omega

theorem wordXNN_fields (f : Fin 16) (nn : Byte) (hf : (fields w).f.toNat = f.val) (hnn : (fields w).nn.toNat = nn.toNat) :
    wordXNN f (nibble (fields w).x) nn = w := by
  have hw := fields_f_nnn_recombine w
  have hnnn := fields_nnn_toNat_eq_x_nn w
  apply BitVec.eq_of_toNat_eq
  simp only [wordXNN, nibble, BitVec.toNat_ofNat]
  omega

/-- Family 8: the selector is the digit `N`. -/
theorem encode_of_decode8 (hf : (fields w).f.toNat = 8) (h : decode8 (fields w) = .ok i) : encode i = w := by
  unfold decode8 at h
  split at h <;> cases h
  all_goals exact wordXYN_fields 8 _ hf ‹_›

/-- Family F: the selector is the byte `NN`. -/
theorem encode_of_decodeF (hf : (fields w).f.toNat = 15) (h : decodeF (fields w) = .ok i) : encode i = w := by
  unfold decodeF at h
  split at h <;> cases h
  all_goals exact wordXNN_fields 15 _ hf ‹_›

/-- Family 0: the selector is `NNN`, which is the whole word. -/
theorem eq_of_family0 {nnn : Addr} {v : Word} (hf : (fields w).f.toNat = 0) (hnnn : (fields w).nnn = nnn)
    (hv : nnn.toNat = v.toNat) : v = w := by
  subst hnnn
  have hw := fields_f_nnn_recombine w
  exact BitVec.eq_of_toNat_eq (by omega)

/-- The encoder gives back the word the decoder read the instruction from. -/
theorem encode_of_decode (h : decode w = .ok i) : encode i = w := by
  unfold decode decodeFields at h
  split at h
  case h_1 hf =>
    split at h
    next hnnn => cases h; exact eq_of_family0 hf hnnn rfl
    next => split at h <;> cases h; next hnnn => exact eq_of_family0 hf hnnn rfl
  case h_6 hf => split at h <;> cases h; exact wordXYN_fields 5 0 hf (congrArg BitVec.toNat ‹_›)
  case h_9 hf => exact encode_of_decode8 hf h
  case h_10 hf => split at h <;> cases h; exact wordXYN_fields 9 0 hf (congrArg BitVec.toNat ‹_›)
  case h_14 hf => cases h; exact wordXYN_fields 13 _ hf rfl
  case h_15 hf =>
    split at h
    next => cases h; exact wordXNN_fields 14 0x9E hf (congrArg BitVec.toNat ‹_›)
    next => split at h <;> cases h; exact wordXNN_fields 14 0xA1 hf (congrArg BitVec.toNat ‹_›)
  case h_16 =>
    have hf : (fields w).f.toNat = 15 := by simp only [imp_false] at *; omega
    exact encode_of_decodeF hf h
  case h_2 hf | h_3 hf | h_11 hf | h_12 hf => cases h; exact wordNNN_fields _ hf
  case h_4 hf | h_5 hf | h_7 hf | h_8 hf | h_13 hf => cases h; exact wordXNN_fields _ _ hf rfl

/-- An instruction that is decoded from its encoding is decoded from no other word. -/
theorem encodedAs_encode (h : decode (encode i) = .ok i) : Claim.EncodedAs i (encode i).toNat := fun _ =>
  ⟨fun hw => congrArg BitVec.toNat (encode_of_decode hw).symm, fun hw => BitVec.eq_of_toNat_eq hw ▸ h⟩

end

end Sys2Proof

/-! PROOFS. Clearing the frame buffer (40_flow_0_1_2.md R120), and the redraw bit of the step that does it (R45). -/

namespace Sys2Proof.Machine

open Sys2Proof Sys2Proof.Claim

section
variable {s : State}

/-- A RUNNING machine executes the instruction it fetched (R41). -/
theorem step_eq_exec {w : Word} {i : Instr} (hs : s.status = .running) (hw : fetch s = .ok w) (hd : decode w = .ok i) :
    step s = exec i s := by
  simp [step, stepWith, hs, hw, hd]

theorem drew_of_fetch_cls {w : Word} (hs : s.status = .running) (hw : fetch s = .ok w) (hd : decode w = .ok .cls) :
    drew s = true := by
  simp [drew, hs, hw, hd]

/-- A step that drew asks for a redraw in both modes (R45). -/
theorem redrawNeeded_of_drew (h : drew s = true) (mode : RedrawReturn) (t : State) : redrawNeeded mode s t = true := by
  simp [redrawNeeded, h]

theorem pixel_blankFrame (r : Fin 32) (c : Fin 64) : pixel blankFrame r c = false := pixel_blankFrame_row r c

end

/-- Settles O16: 00E0 presents the blank frame and advances, and a step that fetches it is one that draws. -/
theorem clsClearsEveryPixel : Obligations.ClsClearsEveryPixel := by
  have hdec : decode 0x00E0 = .ok .cls := by decide
  refine ⟨encodedAs_encode (i := .cls) hdec, fun s => ⟨(s.present blankFrame).advance, rfl, pixel_blankFrame, rfl,
    advanced_of_next_advance rfl rfl, fun _ => rfl, fun _ => rfl, rfl, fun hs hw => ⟨?_, fun mode => ?_⟩⟩⟩
  · exact step_eq_exec hs hw hdec
  · exact redrawNeeded_of_drew (drew_of_fetch_cls hs hw hdec) mode _

end Sys2Proof.Machine

/-! PROOFS. The decoder gives back every encoded instruction (30_encoding.md R92, R95), so an instruction's one word is its
encoding, whose number is put together from its fields. -/

namespace Sys2Proof

theorem wordXYN_toNat (f x y n : Fin 16) :
    (wordXYN f x y n).toNat = f.val * 4096 + x.val * 256 + y.val * 16 + n.val := by
  simp only [wordXYN, BitVec.toNat_ofNat]
  omega

theorem wordXNN_toNat (f x : Fin 16) (nn : Byte) : (wordXNN f x nn).toNat = f.val * 4096 + x.val * 256 + nn.toNat := by
  simp only [wordXNN, BitVec.toNat_ofNat]
  omega

/-- The last digit of an assembled word, as the decoder's selector reads it. -/
theorem fields_wordXYN_n (f x y n : Fin 16) : (fields (wordXYN f x y n)).n = BitVec.ofFin n := by
  obtain ⟨-, -, -, hn⟩ := fields_wordXYN f x y n
  exact congrArg BitVec.ofFin hn

/-- The decoder selects the instruction by the fields of its encoding, and reads the operands from the other fields. -/
theorem decode_encode (i : Instr) : decode (encode i) = .ok i := by
  cases i with
  | cls | ret => decide
  | jp | call | ldI | jpV0 => simp [encode, decode, decodeFields, fields_wordNNN]
  | seImm | sneImm | ldImm | addImm | rnd | skp | sknp => simp [encode, decode, decodeFields, fields_wordXNN]
  | ldVxDt | ldVxK | ldDtVx | ldStVx | addI | ldF | ldB | stRegs | ldRegs =>
    simp [encode, decode, decodeFields, decodeF, fields_wordXNN]
  | ldReg | or | and | xor | addReg | sub | shr | subn | shl =>
    simp [encode, decode, decodeFields, decode8, fields_wordXYN, fields_wordXYN_n]
  | drw => simp [encode, decode, decodeFields, fields_wordXYN]
  | seReg | sneReg => simp [encode, decode, decodeFields, fields_wordXYN, fields_wordXYN_n]

end Sys2Proof

namespace Sys2Proof.Machine

open Sys2Proof Sys2Proof.Claim

theorem encodedAs_of_toNat {i : Instr} {n : Nat} (h : (encode i).toNat = n) : EncodedAs i n :=
  h ▸ encodedAs_encode (decode_encode i)

/-- A skip, taken or not, changes `PC` only. -/
theorem pcFrame_skipIf (s : State) (c : Bool) : PcFrame s (s.skipIf c) :=
  ⟨s.reg_skipIf c, fun a => by simp [State.byteAt], s.skipIf_eq c⟩

/-- A skip on equal bytes compares them as unsigned numbers. -/
theorem next_skipIf_eq (s : State) (a b : Byte) : ∃ t, (.next (s.skipIf (decide (a = b))) : Result) = .next t ∧
    PcFrame s t ∧ t.pc.toNat = (s.pc.toNat + if a.toNat = b.toNat then 4 else 2) % 65536 := by
  refine ⟨_, rfl, pcFrame_skipIf s _, ?_⟩
  simp [State.skipIf_pc_toNat, BitVec.toNat_inj]

/-- The same comparison, with the skip on unequal bytes. -/
theorem next_skipIf_ne (s : State) (a b : Byte) : ∃ t, (.next (s.skipIf (decide (a ≠ b))) : Result) = .next t ∧
    PcFrame s t ∧ t.pc.toNat = (s.pc.toNat + if a.toNat = b.toNat then 2 else 4) % 65536 := by
  refine ⟨_, rfl, pcFrame_skipIf s _, ?_⟩
  simp [State.skipIf_pc_toNat, BitVec.toNat_inj]

/-- Settles O21: each of the four is a skip on one comparison of bytes, and its encoding the word put together from its
fields. -/
theorem skipsCompareUnsignedBytes : Obligations.SkipsCompareUnsignedBytes := fun s x y nn =>
  ⟨⟨encodedAs_of_toNat (wordXNN_toNat 3 x nn), next_skipIf_eq s (s.reg x) nn⟩,
    ⟨encodedAs_of_toNat (wordXNN_toNat 4 x nn), next_skipIf_ne s (s.reg x) nn⟩,
    ⟨encodedAs_of_toNat (wordXYN_toNat 5 x y 0), next_skipIf_eq s (s.reg x) (s.reg y)⟩,
    encodedAs_of_toNat (wordXYN_toNat 9 x y 0), next_skipIf_ne s (s.reg x) (s.reg y)⟩

end Sys2Proof.Machine

/-! PROOFS. Load immediate and add immediate (42_const_6_7.md R140, R141): one register written, then the default advance. -/

namespace Sys2Proof.Machine

open Sys2Proof Sys2Proof.Claim

/-- Writing one register and advancing changes nothing else: no other register, so no flag. -/
theorem regFrame_setReg_advance (s : State) (x : Reg) (b : Byte) : RegFrame [x] s (s.setReg x b).advance :=
  ⟨fun k hk => s.reg_setReg_other x k b (List.ne_of_not_mem_cons hk), fun _ => rfl, rfl⟩

/-- Settles O22: each of the two writes register `X` alone, and its encoding is the word put together from its fields. -/
theorem immediateLoadAndAdd : Obligations.ImmediateLoadAndAdd := by
  intro s x nn
  refine ⟨⟨encodedAs_of_toNat (wordXNN_toNat 6 x nn), (s.setReg x nn).advance, rfl, ?_,
      advanced_of_next_advance rfl rfl, regFrame_setReg_advance s x nn⟩,
    encodedAs_of_toNat (wordXNN_toNat 7 x nn), (s.setReg x (s.reg x + nn)).advance, rfl, ?_,
    advanced_of_next_advance rfl rfl, regFrame_setReg_advance s x _⟩
  · rw [State.reg_advance, State.reg_setReg_same]
  · rw [State.reg_advance, State.reg_setReg_same, BitVec.toNat_add]

end Sys2Proof.Machine

/-! PROOFS. Copy, OR, AND and XOR (43_alu_8.md R150 to R153): one register written from two, and no flag. -/

namespace Sys2Proof.Machine

open Sys2Proof Sys2Proof.Claim

/-- Family 8: an instruction encoded with the digits `8 X Y N` has that one word, whose number is `0x8000 + N` with the two
register digits in place. -/
theorem encodedAs_family8 {i : Instr} (x y : Reg) (n : Fin 16) (h : encode i = wordXYN 8 x y n) :
    EncodedAs i (0x8000 + n.val + x.val * 256 + y.val * 16) := by
  have hword : (wordXYN 8 x y n).toNat = 8 * 4096 + x.val * 256 + y.val * 16 + n.val := wordXYN_toNat 8 x y n
  apply encodedAs_of_toNat
  rw [h, hword]
  omega

/-- An instruction that writes one register and advances leaves that byte there and every other
register as it was. -/
theorem next_setReg_advance (s : State) (x : Reg) (b : Byte) :
    ∃ t, (.next (s.setReg x b).advance : Result) = .next t ∧ t.reg x = b ∧ Advanced s t ∧ RegFrame [x] s t :=
  ⟨_, rfl, s.reg_setReg_same x b, advanced_of_next_advance rfl rfl, regFrame_setReg_advance s x b⟩

/-- Settles O23: each of the four writes register `X` alone, bit by bit from the two registers, and its encoding is the word
put together from its fields. -/
theorem copyAndLogicLeaveTheFlag : Obligations.CopyAndLogicLeaveTheFlag := by
  intro s x y
  obtain ⟨tOr, hOr, hOrX, frameOr⟩ := next_setReg_advance s x (s.reg x ||| s.reg y)
  obtain ⟨tAnd, hAnd, hAndX, frameAnd⟩ := next_setReg_advance s x (s.reg x &&& s.reg y)
  obtain ⟨tXor, hXor, hXorX, frameXor⟩ := next_setReg_advance s x (s.reg x ^^^ s.reg y)
  refine ⟨⟨encodedAs_family8 x y 0 rfl, next_setReg_advance s x (s.reg y)⟩,
    ⟨encodedAs_family8 x y 1 rfl, tOr, hOr, fun b => ?_, frameOr⟩,
    ⟨encodedAs_family8 x y 2 rfl, tAnd, hAnd, fun b => ?_, frameAnd⟩,
    encodedAs_family8 x y 3 rfl, tXor, hXor, fun b => ?_, frameXor⟩
  · rw [hOrX, BitVec.getLsbD_or]
  · rw [hAndX, BitVec.getLsbD_and]
  · rw [hXorX, BitVec.getLsbD_xor]

end Sys2Proof.Machine

/-! PROOFS. The index register (44_index_jump_random_A_B_C.md R170, 47_misc_F.md R204, R205): one word put into `I`, then the
default advance. -/

namespace Sys2Proof.Machine

open Sys2Proof Sys2Proof.Claim

theorem wordNNN_toNat (f : Fin 16) (nnn : Addr) : (wordNNN f nnn).toNat = f.val * 4096 + nnn.toNat := by
  simp only [wordNNN, BitVec.toNat_ofNat]
  omega

/-- Family F: an instruction encoded with `F`, `X` and the selector byte `NN` has that one word, whose number is `0xF000 + NN`
with the register digit in place. -/
theorem encodedAs_familyF {i : Instr} (x : Reg) (nn : Byte) (h : encode i = wordXNN 15 x nn) :
    EncodedAs i (0xF000 + nn.toNat + x.val * 256) := by
  have hword : (wordXNN 15 x nn).toNat = 15 * 4096 + x.val * 256 + nn.toNat := wordXNN_toNat 15 x nn
  apply encodedAs_of_toNat
  rw [h, hword]
  omega

/-- The sum FX1E puts into `I` wraps at 65536, the width of `I`, and is not masked to 12 bits (R204). -/
theorem add_byteWord_toNat (w : Word) (b : Byte) : (w + byteWord b).toNat = (w.toNat + b.toNat) % 65536 := by
  have hb : (byteWord b).toNat = b.toNat := BitVec.toNat_setWidth_of_le (by decide)
  rw [BitVec.toNat_add, hb]

/-- An instruction that writes `I` and advances leaves that word there and changes nothing else: no register, so no flag. -/
theorem next_setIndex_advance (s : State) {w : Word} {n : Nat} (h : w.toNat = n) :
    ∃ t, (.next (s.setIndex w).advance : Result) = .next t ∧ t.i.toNat = n ∧ Advanced s t ∧ IndexFrame s t :=
  ⟨_, rfl, h, advanced_of_next_advance rfl rfl, fun _ => rfl, fun _ => rfl, rfl⟩

/-- Settles O28: each of the three puts one word into `I`, whose number is that of the address, of the wrapped sum or of the
glyph's place. -/
theorem indexRegisterArithmetic : Obligations.IndexRegisterArithmetic := fun s x nnn =>
  ⟨⟨encodedAs_of_toNat (wordNNN_toNat 10 nnn), next_setIndex_advance s (addrWord_toNat nnn)⟩,
    ⟨encodedAs_familyF x 0x1E rfl, next_setIndex_advance s (add_byteWord_toNat s.i (s.reg x))⟩,
    encodedAs_familyF x 0x29 rfl, next_setIndex_advance s (glyphAddress_toNat (s.reg x))⟩

end Sys2Proof.Machine

/-! PROOFS. The timers and the registers (47_misc_F.md R200, R202, R203): `DT` read into a register, `DT` or `ST` written from
one. -/

namespace Sys2Proof.Machine

open Sys2Proof Sys2Proof.Claim

/-- Writing `DT` and advancing leaves `ST` and everything else as it was. -/
theorem next_setDt_advance (s : State) (b : Byte) :
    ∃ t, (.next (s.setDt b).advance : Result) = .next t ∧ t.dt = b ∧ Advanced s t ∧ (∀ k, t.reg k = s.reg k) ∧
      (∀ a, t.byteAt a = s.byteAt a) ∧ t = { s with dt := t.dt, pc := t.pc } :=
  ⟨_, rfl, rfl, advanced_of_next_advance rfl rfl, fun _ => rfl, fun _ => rfl, rfl⟩

/-- Writing `ST` and advancing leaves `DT` and everything else as it was. -/
theorem next_setSt_advance (s : State) (b : Byte) :
    ∃ t, (.next (s.setSt b).advance : Result) = .next t ∧ t.st = b ∧ Advanced s t ∧ (∀ k, t.reg k = s.reg k) ∧
      (∀ a, t.byteAt a = s.byteAt a) ∧ t = { s with st := t.st, pc := t.pc } :=
  ⟨_, rfl, rfl, advanced_of_next_advance rfl rfl, fun _ => rfl, fun _ => rfl, rfl⟩

/-- Settles O35: FX07 writes register `X` alone, FX15 `DT` alone and FX18 `ST` alone, and the encoding of each is its selector
byte with the register digit. -/
theorem timerTransfers : Obligations.TimerTransfers := fun s x =>
  ⟨⟨encodedAs_familyF x 0x07 rfl, next_setReg_advance s x s.dt⟩,
    ⟨encodedAs_familyF x 0x15 rfl, next_setDt_advance s (s.reg x)⟩,
    encodedAs_familyF x 0x18 rfl, next_setSt_advance s (s.reg x)⟩

end Sys2Proof.Machine

/-! PROOFS. The timers under `Tick` (60_exceptions.md R255, R256): one tick, then a run of ticks. -/

namespace Sys2Proof.Machine

open Sys2Proof Sys2Proof.Claim

theorem State.tick_dt_toNat (s : State) : s.tick.dt.toNat = s.dt.toNat - 1 := countDown_toNat s.dt

theorem State.tick_st_toNat (s : State) : s.tick.st.toNat = s.st.toNat - 1 := countDown_toNat s.st

/-- A schedule of nothing but ticks ticks the machine once for each of them. -/
theorem machine_of_performAll_replicate_tick (hw : Params) (j : Nat) (m m' : Session)
    (h : performAll hw (List.replicate j .tick) m = .next m') : m'.machine = State.tick^[j] m.machine := by
  induction j generalizing m with
  | zero => cases h; rfl
  | succ j ih => exact ih ⟨m.machine.tick, .started⟩ h

theorem State.iterate_tick_timers (s : State) (j : Nat) :
    (State.tick^[j] s).dt.toNat = s.dt.toNat - j ∧ (State.tick^[j] s).st.toNat = s.st.toNat - j := by
  induction j with
  | zero => exact ⟨rfl, rfl⟩
  | succ j ih =>
    obtain ⟨hdt, hst⟩ := ih
    rw [Function.iterate_succ_apply', State.tick_dt_toNat, State.tick_st_toNat, hdt, hst]
    exact ⟨Nat.sub_sub _ _ _, Nat.sub_sub _ _ _⟩

/-- Settles O43: one tick counts both timers down and touches no other field, and `j` ticks are `State.tick` iterated. -/
theorem tickCountsDown : Obligations.TickCountsDown := fun s =>
  ⟨⟨s.tick_dt_toNat, s.tick_st_toNat, rfl⟩, fun hw j p m h => by
    rw [machine_of_performAll_replicate_tick hw j ⟨s, p⟩ m h]
    exact s.iterate_tick_timers j⟩

end Sys2Proof.Machine

/-! PROOFS. The operations of the collaborators (60_exceptions.md R260, R262, R263), and that no operation but theirs and `Reset`
changes a key or clears `DIRTY`: one lemma per shape of an arm of `exec` that can fault, then one case per instruction, then one
per operation. -/

namespace Sys2Proof.Machine

open Sys2Proof Sys2Proof.Claim

/-- What a step owes the other agents: no key changes, and `DIRTY` is not cleared (R260, R263). -/
structure KeepsKeysAndDirty (s t : State) : Prop where
  keys : t.keys = s.keys
  dirty : s.dirty = true → t.dirty = true

section
variable {s t u : State}

theorem keepsKeysAndDirty_of_next (h : (.next u : Result) = .next t) (hu : KeepsKeysAndDirty s u) : KeepsKeysAndDirty s t := by
  cases h
  exact hu

theorem keepsKeysAndDirty_raise (s : State) (f : Fault) (a : Nat) : KeepsKeysAndDirty s (s.raise f a) := ⟨rfl, id⟩

theorem keepsKeysAndDirty_skipIf (s : State) (c : Bool) : KeepsKeysAndDirty s (s.skipIf c) :=
  ⟨s.skipIf_keys c, (s.skipIf_dirty c).trans⟩

/-- An instruction behind the bounds check keeps what its effects keep, for the fault keeps it too (R65). -/
theorem keepsKeysAndDirty_of_withRange {n : Nat} (h : s.withRange n (.next u) = .next t) (hu : KeepsKeysAndDirty s u) :
    KeepsKeysAndDirty s t := by
  obtain ⟨-, e⟩ | ⟨-, e⟩ := s.withRange_cases n (.next u)
  · exact keepsKeysAndDirty_of_next (e.symm.trans h) (keepsKeysAndDirty_raise s _ _)
  · exact keepsKeysAndDirty_of_next (e.symm.trans h) hu

theorem execRet_keepsKeysAndDirty (h : execRet s = .next t) : KeepsKeysAndDirty s t := by
  unfold execRet at h
  split at h
  next a u hpop =>
    obtain ⟨-, -, -, -, hu⟩ := s.pop?_some u a hpop
    exact keepsKeysAndDirty_of_next h (hu ▸ ⟨rfl, id⟩)
  next => exact keepsKeysAndDirty_of_next h (keepsKeysAndDirty_raise s _ _)

theorem execCall_keepsKeysAndDirty {nnn : Addr} (h : execCall nnn s = .next t) : KeepsKeysAndDirty s t := by
  unfold execCall at h
  split at h
  next u hpush =>
    obtain ⟨-, -, -, hu⟩ := s.push?_some u s.pc hpush
    exact keepsKeysAndDirty_of_next h (hu ▸ ⟨rfl, id⟩)
  next => exact keepsKeysAndDirty_of_next h (keepsKeysAndDirty_raise s _ _)

theorem execSkp_keepsKeysAndDirty {x : Reg} (h : execSkp x s = .next t) : KeepsKeysAndDirty s t := by
  unfold execSkp at h
  split at h
  next => exact keepsKeysAndDirty_of_next h (keepsKeysAndDirty_skipIf s _)
  next => exact keepsKeysAndDirty_of_next h (keepsKeysAndDirty_raise s _ _)

theorem execSknp_keepsKeysAndDirty {x : Reg} (h : execSknp x s = .next t) : KeepsKeysAndDirty s t := by
  unfold execSknp at h
  split at h
  next => exact keepsKeysAndDirty_of_next h (keepsKeysAndDirty_skipIf s _)
  next => exact keepsKeysAndDirty_of_next h (keepsKeysAndDirty_raise s _ _)

theorem execLdVxK_keepsKeysAndDirty {x : Reg} (h : execLdVxK x s = .next t) : KeepsKeysAndDirty s t := by
  unfold execLdVxK at h
  split at h
  next => exact keepsKeysAndDirty_of_next h ⟨rfl, id⟩
  next => exact keepsKeysAndDirty_of_next h ⟨rfl, id⟩

/-- No instruction writes a key, and the two that write `DIRTY` set it (R28). -/
theorem exec_keepsKeysAndDirty {i : Instr} (h : exec i s = .next t) : KeepsKeysAndDirty s t := by
  cases i with
  | cls => exact keepsKeysAndDirty_of_next h ⟨rfl, fun _ => rfl⟩
  | drw => exact keepsKeysAndDirty_of_withRange h ⟨rfl, fun _ => rfl⟩
  | ret => exact execRet_keepsKeysAndDirty h
  | call => exact execCall_keepsKeysAndDirty h
  | skp => exact execSkp_keepsKeysAndDirty h
  | sknp => exact execSknp_keepsKeysAndDirty h
  | ldVxK => exact execLdVxK_keepsKeysAndDirty h
  | seImm | sneImm | seReg | sneReg => exact keepsKeysAndDirty_of_next h (keepsKeysAndDirty_skipIf s _)
  | ldB | stRegs | ldRegs => exact keepsKeysAndDirty_of_withRange h ⟨rfl, id⟩
  | jp | jpV0 | ldImm | addImm | ldReg | or | and | xor | addReg | sub | shr | subn | shl | ldI | rnd | ldVxDt | ldDtVx
  | ldStVx | addI | ldF => exact keepsKeysAndDirty_of_next h ⟨rfl, id⟩

theorem step_keepsKeysAndDirty (h : step s = .next t) : KeepsKeysAndDirty s t := by
  obtain ⟨-, e⟩ | ⟨-, f, a, -, e⟩ | ⟨-, w, i, -, -, e⟩ | ⟨-, w, why, -, -, e⟩ := step_cases s
  · exact keepsKeysAndDirty_of_next (e.symm.trans h) ⟨rfl, id⟩
  · exact keepsKeysAndDirty_of_next (e.symm.trans h) (keepsKeysAndDirty_raise s f a)
  · exact exec_keepsKeysAndDirty (e.symm.trans h)
  · exact keepsKeysAndDirty_of_next (e.symm.trans h) ⟨rfl, id⟩

/-- The alias policy only decides whether an alias word is refused: where a step answers, it is the hardware's step (R231). -/
theorem step_eq_next_of_stepWith {policy : AliasPolicy} (h : stepWith policy s = .next t) : step s = .next t := by
  obtain ⟨hs, e⟩ | ⟨hs, f, a, hw, e⟩ | ⟨hs, w, i, hw, hd, e⟩ | ⟨hs, w, why, hw, hd, e⟩ := step_cases s
  · simpa [e, stepWith, hs] using h
  · simpa [e, stepWith, hs, hw] using h
  · simpa [e, stepWith, hs, hw, hd] using h
  · simp only [stepWith, hs, hw, hd, execUnassigned] at h
    split at h
    · cases h
    · exact e.trans h

end

section
variable {hw : Params} {m m' : Session} {r : Response} {op : Operation}

/-- A load that succeeds changes memory alone (R284). -/
theorem State.load?_some {s t : State} {prog : List Byte} (h : s.load? prog = some t) : t = { s with mem := t.mem } := by
  unfold State.load? at h
  split at h
  · cases h; rfl
  · cases h

/-- A `Load` that is not refused changes memory at most (R284, R285). -/
theorem perform_load_machine {prog : List Byte} (h : perform hw (.load prog) m = .next (m', r)) :
    m'.machine = { m.machine with mem := m'.machine.mem } := by
  cases hp : m.phase with
  | fresh =>
    rw [perform_load_fresh hw m prog hp] at h
    split at h
    next s hload => cases h; exact State.load?_some hload
    next => cases h; rfl
  | loaded | started => simp [perform, hp] at h

theorem perform_step_keepsKeysAndDirty (h : perform hw .step m = .next (m', r)) :
    KeepsKeysAndDirty m.machine m'.machine := by
  obtain ⟨t, ht, rfl, -⟩ := (perform_step hw m m' r).1 h
  exact step_keepsKeysAndDirty (step_eq_next_of_stepWith ht)

/-- Besides `Reset`, only `SetKey` changes a key (R260). -/
theorem perform_keys (h : perform hw op m = .next (m', r)) (hreset : op ≠ .reset) (hset : ∀ k b, op ≠ .setKey k b) :
    m'.machine.keys = m.machine.keys := by
  cases op with
  | reset => exact absurd rfl hreset
  | setKey k b => exact absurd rfl (hset k b)
  | load => rw [perform_load_machine h]
  | step => exact (perform_step_keepsKeysAndDirty h).keys
  | tick | clearDirty | readFrame => cases h; rfl

/-- Besides `Reset`, only `ClearDirty` clears `DIRTY` (R263, R264). -/
theorem perform_dirty (h : perform hw op m = .next (m', r)) (hreset : op ≠ .reset) (hclear : op ≠ .clearDirty)
    (hd : m.machine.dirty = true) : m'.machine.dirty = true := by
  cases op with
  | reset => exact absurd rfl hreset
  | clearDirty => exact absurd rfl hclear
  | load => rw [perform_load_machine h]; exact hd
  | step => exact (perform_step_keepsKeysAndDirty h).dirty hd
  | tick | setKey | readFrame => cases h; exact hd

end

theorem State.key_setKey (s : State) (k j : Key) (b : Bool) : (s.setKey k b).key j = if j = k then b else s.key j := by
  simp [State.key, Vector.getElem_set, Fin.ext_iff, eq_comm]

/-- What `ReadFrame` presents of one pixel (R262). -/
theorem State.frame_get (s : State) (r : Fin 32) (c : Fin 64) : s.frame[r][c] = pixelByte (pixel s.fb r c) := by
  simp [State.frame, pixel]

/-- Settles O44: the three operations by what they write, and the other operations by `perform_keys` and `perform_dirty`. -/
theorem collaboratorOperations : Obligations.CollaboratorOperations := fun hw s p k b =>
  ⟨⟨⟨s.setKey k b, .started⟩, .done, rfl, by simp [State.key_setKey], fun j hj => by simp [State.key_setKey, hj], rfl⟩,
    ⟨s.frame, rfl, s.frame_get⟩,
    ⟨⟨s.clearDirty, .started⟩, .done, rfl, rfl⟩,
    fun _ _ _ h => ⟨perform_keys h, perform_dirty h⟩⟩

end Sys2Proof.Machine

/-! PROOFS. The decoder against the encoder, the opcode map and the classes of unassigned words (30_encoding.md R92, R95, R97). -/

namespace Sys2Proof

/-- Settles O1: `decode_encode` is the statement, one case per way an instruction is assembled. -/
theorem decodeEncodeRoundTrip : Obligations.DecodeEncodeRoundTrip := decode_encode

/-- Settles O2: `encode_of_decode` puts the word together again from the fields of the branch that decoded it. -/
theorem decodedWordReencodes : Obligations.DecodedWordReencodes := fun _ _ => encode_of_decode

/-- Settles O5: each word is decoded as it stands. -/
theorem sampleWordsDecode : Obligations.SampleWordsDecode := by
  unfold Obligations.SampleWordsDecode
  decide

section
variable {w : Word} {i : Instr} {r : OpcodeRow}

theorem eq_of_digits {v : Word} (hf : (fields w).f = (fields v).f) (hx : (fields w).x = (fields v).x)
    (hy : (fields w).y = (fields v).y) (hn : (fields w).n = (fields v).n) : w = v := by
  apply BitVec.eq_of_toNat_eq
  rw [← fields_digits_recombine w, ← fields_digits_recombine v, hf, hx, hy, hn]

/-- Selecting a row compares digit by digit, each under the row's mask (R95). -/
theorem selects_iff_digits : r.selects w = true ↔
    (fields w).f &&& (fields r.mask).f = (fields r.pattern).f ∧ (fields w).x &&& (fields r.mask).x = (fields r.pattern).x ∧
    (fields w).y &&& (fields r.mask).y = (fields r.pattern).y ∧ (fields w).n &&& (fields r.mask).n = (fields r.pattern).n := by
  have hand : (fields (w &&& r.mask)).f = (fields w).f &&& (fields r.mask).f ∧
      (fields (w &&& r.mask)).x = (fields w).x &&& (fields r.mask).x ∧
      (fields (w &&& r.mask)).y = (fields w).y &&& (fields r.mask).y ∧
      (fields (w &&& r.mask)).n = (fields w).n &&& (fields r.mask).n := by
    simp only [fields, BitVec.extractLsb'_and, and_self]
  obtain ⟨hf, hx, hy, hn⟩ := hand
  rw [OpcodeRow.selects, decide_eq_true_eq, ← hf, ← hx, ← hy, ← hn]
  exact ⟨fun h => by simp [h], fun ⟨h1, h2, h3, h4⟩ => eq_of_digits h1 h2 h3 h4⟩

theorem and_fifteen (d : BitVec 4) : d &&& 15 = d := BitVec.and_allOnes

/-- A row whose pattern fixes the first digit alone. -/
theorem selects_f (name : String) {p : Word} (hp : p.toNat % 4096 = 0) :
    OpcodeRow.selects ⟨name, p, 0xF000⟩ w = true ↔ (fields w).f.toNat = p.toNat / 4096 := by
  have hmask : fields 0xF000 = ⟨15, 0, 0, 0, 0, 0⟩ := by decide
  obtain ⟨hf, hx, hy, hn, -, -⟩ := fields_toNat p
  simp only [selects_iff_digits, hmask, and_fifteen, BitVec.toNat_eq]
  simp
  omega

/-- A row whose pattern fixes the first and the last digit. -/
theorem selects_f_n (name : String) {p : Word} (hp : p.toNat / 16 % 256 = 0) :
    OpcodeRow.selects ⟨name, p, 0xF00F⟩ w = true ↔
      (fields w).f.toNat = p.toNat / 4096 ∧ (fields w).n.toNat = p.toNat % 16 := by
  have hmask : fields 0xF00F = ⟨15, 0, 0, 15, 15, 15⟩ := by decide
  obtain ⟨hf, hx, hy, hn, -, -⟩ := fields_toNat p
  simp only [selects_iff_digits, hmask, and_fifteen, BitVec.toNat_eq]
  simp
  omega

/-- A row whose pattern fixes the first digit and the low byte. -/
theorem selects_f_nn (name : String) {p : Word} (hp : p.toNat / 256 % 16 = 0) :
    OpcodeRow.selects ⟨name, p, 0xF0FF⟩ w = true ↔
      (fields w).f.toNat = p.toNat / 4096 ∧ (fields w).nn.toNat = p.toNat % 256 := by
  have hmask : fields 0xF0FF = ⟨15, 0, 15, 15, 255, 255⟩ := by decide
  obtain ⟨hf, hx, hy, hn, -, -⟩ := fields_toNat p
  have hnn := fields_nn_toNat_eq_digits w
  simp only [selects_iff_digits, hmask, and_fifteen, BitVec.toNat_eq]
  simp
  omega

/-- A row whose pattern fixes the whole word. -/
theorem selects_word (name : String) (p : Word) : OpcodeRow.selects ⟨name, p, 0xFFFF⟩ w = true ↔ w = p := by
  have hmask : w &&& 0xFFFF = w := BitVec.and_allOnes
  rw [OpcodeRow.selects, hmask, decide_eq_true_eq]

theorem row_mem_opcodeMap (i : Instr) : i.row ∈ opcodeMap := by
  cases i <;> simp [opcodeMap, rowSamples, Instr.row]

/-- The row of an instruction selects its encoding. -/
theorem row_selects_encode (i : Instr) : i.row.selects (encode i) = true := by
  cases i with
  | cls | ret => decide
  | jp nnn | call nnn | ldI nnn | jpV0 nnn => exact (selects_f _ rfl).2 (fields_wordNNN _ nnn).1
  | seImm x nn | sneImm x nn | ldImm x nn | addImm x nn | rnd x nn => exact (selects_f _ rfl).2 (fields_wordXNN _ x nn).1
  | drw x y n => exact (selects_f _ rfl).2 (fields_wordXYN 13 x y n).1
  | seReg x y | sneReg x y | ldReg x y | or x y | and x y | xor x y | addReg x y | sub x y | shr x y | subn x y | shl x y =>
    exact (selects_f_n _ rfl).2 ⟨(fields_wordXYN _ x y _).1, congrArg BitVec.toNat (fields_wordXYN_n _ x y _)⟩
  | skp x | sknp x | ldVxDt x | ldVxK x | ldDtVx x | ldStVx x | addI x | ldF x | ldB x | stRegs x | ldRegs x =>
    exact (selects_f_nn _ rfl).2 ⟨(fields_wordXNN _ x _).1, congrArg BitVec.toNat (fields_wordXNN _ x _).2.2⟩

/-- A word that selects the row of some instruction decodes to an instruction of that row. -/
theorem decode_of_row_selects (h : i.row.selects w = true) : ∃ j, decode w = .ok j ∧ j.row = i.row := by
  cases i with
  | cls => exact ⟨.cls, (selects_word _ _).1 h ▸ decode_encode .cls, rfl⟩
  | ret => exact ⟨.ret, (selects_word _ _).1 h ▸ decode_encode .ret, rfl⟩
  | jp | call | ldI | jpV0 | seImm | sneImm | ldImm | addImm | rnd | drw =>
    have hf := (selects_f _ rfl).1 h
    simp [decode, decodeFields, hf, Instr.row]
  | seReg | sneReg | ldReg | or | and | xor | addReg | sub | shr | subn | shl =>
    obtain ⟨hf, hn⟩ := (selects_f_n _ rfl).1 h
    simp [decode, decodeFields, decode8, hf, hn, BitVec.toNat_eq, Instr.row]
  | skp | sknp | ldVxDt | ldVxK | ldDtVx | ldStVx | addI | ldF | ldB | stRegs | ldRegs =>
    obtain ⟨hf, hnn⟩ := (selects_f_nn _ rfl).1 h
    simp [decode, decodeFields, decodeF, hf, hnn, BitVec.toNat_eq, Instr.row]

theorem exists_row_of_mem_opcodeMap (h : r ∈ opcodeMap) : ∃ i : Instr, i.row = r := by
  obtain ⟨i, -, hi⟩ := List.mem_map.1 h
  exact ⟨i, hi⟩

end

/-- Settles O3: an instruction's row selects its encoding, and a selected row names the row of the instruction decoded. -/
theorem decoderAgreesWithOpcodeMap : Obligations.DecoderAgreesWithOpcodeMap := by
  have selects {w i} (h : decode w = .ok i) : i.row.selects w = true := encode_of_decode h ▸ row_selects_encode i
  refine ⟨fun w i h => ⟨row_mem_opcodeMap i, selects h, fun r hr hsel => ?_⟩,
    fun w => ⟨fun ⟨i, h⟩ => ?_, fun ⟨r, hr, hsel⟩ => ?_⟩⟩
  · obtain ⟨j, rfl⟩ := exists_row_of_mem_opcodeMap hr
    obtain ⟨k, hk, hrow⟩ := decode_of_row_selects hsel
    cases h.symm.trans hk
    exact hrow.symm
  · exact ⟨i.row, row_mem_opcodeMap i, selects h⟩
  · obtain ⟨j, rfl⟩ := exists_row_of_mem_opcodeMap hr
    obtain ⟨k, hk, -⟩ := decode_of_row_selects hsel
    exact ⟨k, hk⟩

end Sys2Proof

/-! PROOFS. The classes of unassigned words (30_encoding.md R97), on the word as a number. -/

namespace Sys2Proof

section
variable {d : Fields} {why : DecodeReject}

theorem ite_ok_eq_error {c : Prop} [Decidable c] {i : Instr} {e : Except DecodeReject Instr} :
    (if c then .ok i else e) = .error why ↔ ¬ c ∧ e = .error why := by
  split <;> simp_all

theorem decode8_eq_error : decode8 d = .error why ↔
    d.n.toNat ∉ [0, 1, 2, 3, 4, 5, 6, 7, 0xE] ∧ unassignedClass d = why := by
  unfold decode8
  split <;> simp_all

theorem decodeF_eq_error : decodeF d = .error why ↔
    d.nn.toNat ∉ [0x07, 0x0A, 0x15, 0x18, 0x1E, 0x29, 0x33, 0x55, 0x65] ∧ unassignedClass d = why := by
  unfold decodeF
  split <;> simp_all

/-- The words the decoder rejects, family by family, each by the name of its class. -/
theorem decodeFields_eq_error : decodeFields d = .error why ↔
    (d.f.toNat = 0 ∧ d.nnn.toNat ∉ [0xE0, 0xEE] ∨ d.f.toNat ∈ [5, 9] ∧ d.n.toNat ≠ 0 ∨
      d.f.toNat = 8 ∧ d.n.toNat ∉ [0, 1, 2, 3, 4, 5, 6, 7, 0xE] ∨ d.f.toNat = 14 ∧ d.nn.toNat ∉ [0x9E, 0xA1] ∨
      d.f.toNat = 15 ∧ d.nn.toNat ∉ [0x07, 0x0A, 0x15, 0x18, 0x1E, 0x29, 0x33, 0x55, 0x65]) ∧
    unassignedClass d = why := by
  unfold decodeFields
  split
  case h_1 h | h_6 h | h_10 h | h_15 h => simp [h, ite_ok_eq_error, BitVec.toNat_eq, and_assoc]
  case h_9 h => simp [h, decode8_eq_error]
  case h_16 =>
    have hf : d.f.toNat = 15 := by simp only [imp_false] at *; omega
    simp [hf, decodeF_eq_error]
  case h_2 h | h_3 h | h_4 h | h_5 h | h_7 h | h_8 h | h_11 h | h_12 h | h_13 h | h_14 h => simp [h]

/-- Class A by family and last digit (the table of R97). -/
theorem unassignedClass_eq_aliasWord : unassignedClass d = .aliasWord ↔
    d.f.toNat = 0 ∧ d.n.toNat ∈ [0, 0xE] ∨ d.f.toNat ∈ [5, 9] ∨ d.f.toNat = 14 ∧ d.n.toNat ∈ [0xE, 1] ∨
      d.f.toNat = 15 ∧ d.n.toNat ∈ [0x3, 0x5, 0x7, 0x8, 0x9, 0xA, 0xE] := by
  unfold unassignedClass
  split
  case h_1 h | h_4 h | h_5 h => simp [h, BitVec.toNat_eq, or_iff_not_imp_left]
  case h_2 h | h_3 h => simp [h]
  case h_6 => simp_all

theorem unassignedClass_alias_or_unknown (d : Fields) :
    unassignedClass d = .aliasWord ∨ unassignedClass d = .unknownWord := by
  unfold unassignedClass
  split
  case h_1 | h_4 | h_5 => exact ite_eq_or_eq _ _ _
  case h_2 | h_3 => exact .inl rfl
  case h_6 => exact .inr rfl

/-- A word that is rejected but not of class A is of class U. -/
theorem unassignedClass_eq_unknownWord : unassignedClass d = .unknownWord ↔ unassignedClass d ≠ .aliasWord := by
  obtain h | h := unassignedClass_alias_or_unknown d <;> simp [h]

theorem unassignedClass_ne_truncated (d : Fields) : unassignedClass d ≠ .truncated := by
  obtain h | h := unassignedClass_alias_or_unknown d <;> simp [h]

end

/-- The family F selectors that share their last digit with a word of class U. -/
theorem familyF_unknown (nn : Byte) :
    nn.toNat ∉ [0x07, 0x0A, 0x15, 0x18, 0x1E, 0x29, 0x33, 0x55, 0x65] ∧
        nn.toNat % 16 ∉ [0x3, 0x5, 0x7, 0x8, 0x9, 0xA, 0xE] ↔
      nn.toNat % 16 ∈ [0x0, 0x1, 0x2, 0x4, 0x6, 0xB, 0xC, 0xD, 0xF] := by
  revert nn
  decide

/-- Settles O6: the rejected words by family, each with its class, and the digits of the word as a number. -/
theorem unassignedWordClasses : Obligations.UnassignedWordClasses := by
  intro w
  obtain ⟨hf, -, -, hn, hnn, hnnn⟩ := fields_toNat w
  have hword := fields_f_nnn_recombine w
  have hlast : (fields w).n.toNat = (fields w).nn.toNat % 16 := by omega
  have hlow : (fields w).nn.toNat = (fields w).nnn.toNat % 256 := by omega
  have hnib := (fields w).n.isLt
  have family : (fields w).f.toNat = 0 ∨ (fields w).f.toNat = 5 ∨ (fields w).f.toNat = 8 ∨ (fields w).f.toNat = 9 ∨
      (fields w).f.toNat = 14 ∨ (fields w).f.toNat = 15 ∨ (fields w).f.toNat ∉ [0, 5, 8, 9, 14, 15] := by
    simp
    omega
  rw [← hf, ← hn, ← hnn]
  simp only [decode, decodeFields_eq_error, unassignedClass_eq_unknownWord, ne_eq, unassignedClass_eq_aliasWord]
  clear hf hn hnn hnnn
  generalize (fields w).f.toNat = f at *
  generalize (fields w).n.toNat = n at *
  refine ⟨?_, ?_, fun h => unassignedClass_ne_truncated _ h.2⟩
  · obtain rfl | rfl | rfl | rfl | rfl | rfl | h := family
    · simp; omega
    · simp
    · simp
    · simp
    · simp [and_comm]
    · simp [and_comm]
    · simp_all
  · obtain rfl | rfl | rfl | rfl | rfl | rfl | h := family
    · simp; omega
    · simp
    · simp; omega
    · simp
    · simp; omega
    · have := familyF_unknown (fields w).nn
      simpa [hlast] using this
    · simp_all

end Sys2Proof

/-! PROOFS. The arms of `exec` that fault, or wait, under a condition: what each does in each case, and that it does nothing
else. -/

namespace Sys2Proof.Machine

open Sys2Proof Sys2Proof.Claim

section
variable {s t u : State}

/-- A result is one state, so what holds of some next state holds of every one. -/
theorem of_next {r : Result} {P : State → Prop} {t : State} (hP : ∃ u, r = .next u ∧ P u) (h : r = .next t) : P t := by
  obtain ⟨u, hu, hp⟩ := hP
  cases hu.symm.trans h
  exact hp

theorem State.withRange_of_inRange {n : Nat} {go : Result} (h : n = 0 ∨ s.i.toNat + n ≤ 4096) : s.withRange n go = go := by
  obtain ⟨⟨hn, hr⟩, -⟩ | ⟨-, e⟩ := s.withRange_cases n go
  · omega
  · exact e

theorem State.withRange_of_outOfRange {n : Nat} (go : Result) (hn : n ≠ 0) (h : s.i.toNat + n - 1 > 4095) :
    s.withRange n go = .next (s.raise .dataBounds (max s.i.toNat 4096)) := by
  obtain ⟨-, e⟩ | ⟨hr, -⟩ := s.withRange_cases n go
  · exact e
  · rw [memSize] at hr; omega

/-- A return on a stack that is not empty: the top slot plus 2, which keeps its value (R121). -/
theorem execRet_of_sp {j : Fin 16} (h : s.sp.val = j.val + 1) :
    ∃ u : State, execRet s = .next (u.setPc (s.stk[j] + 2)) ∧ u.sp.val = j.val ∧ u = { s with sp := u.sp } := by
  cases hp : s.pop? with
  | none => have := (s.pop?_none).1 hp; omega
  | some p =>
    obtain ⟨a, u⟩ := p
    obtain ⟨k, hk, rfl, hu, heq⟩ := s.pop?_some u a hp
    obtain rfl : j = k := Fin.ext (by omega)
    exact ⟨u, by rw [execRet, hp], hu, heq⟩

/-- A call on a stack that is not full: its own address in the next slot, every other slot as it was (R123). -/
theorem execCall_of_sp (nnn : Addr) (h : s.sp.val < 16) :
    ∃ u : State, execCall nnn s = .next (u.setPc (addrWord nnn)) ∧ u.sp.val = s.sp.val + 1 ∧
      (∀ j : Fin 16, u.stk[j] = if j.val = s.sp.val then s.pc else s.stk[j]) ∧ u = { s with stk := u.stk, sp := u.sp } := by
  cases hp : s.push? s.pc with
  | none => have := (s.push?_none s.pc).1 hp; omega
  | some u =>
    obtain ⟨-, hsp, hstk, heq⟩ := s.push?_some u s.pc hp
    exact ⟨u, by rw [execCall, hp], hsp, hstk, heq⟩

theorem execRet_of_empty (h : s.sp.val = 0) : execRet s = .next (s.raise .stackUnderflow s.pc.toNat) := by
  rw [execRet, (s.pop?_none).2 h]

theorem execCall_of_full (nnn : Addr) (h : s.sp.val = 16) :
    execCall nnn s = .next (s.raise .stackOverflow s.pc.toNat) := by
  rw [execCall, (s.push?_none s.pc).2 h]

/-- Everything a return can do (R121). -/
theorem execRet_next (h : execRet s = .next t) : (s.sp.val = 0 ∧ t = s.raise .stackUnderflow s.pc.toNat) ∨
    ∃ j : Fin 16, s.sp.val = j.val + 1 ∧ t.sp.val = j.val ∧ t.pc = s.stk[j] + 2 ∧ t = { s with sp := t.sp, pc := t.pc } := by
  cases hsp : s.sp.val with
  | zero =>
    cases (execRet_of_empty hsp).symm.trans h
    exact .inl ⟨rfl, rfl⟩
  | succ j =>
    obtain ⟨u, hexec, hu, heq⟩ := execRet_of_sp (s := s) (j := ⟨j, by omega⟩) hsp
    cases hexec.symm.trans h
    exact .inr ⟨⟨j, by omega⟩, rfl, hu, rfl, by rw [heq]; rfl⟩

/-- Everything a call can do (R123). -/
theorem execCall_next {nnn : Addr} (h : execCall nnn s = .next t) :
    (s.sp.val = 16 ∧ t = s.raise .stackOverflow s.pc.toNat) ∨
    (s.sp.val < 16 ∧ t.sp.val = s.sp.val + 1 ∧ t.pc = addrWord nnn ∧
      (∀ j : Fin 16, t.stk[j] = if j.val = s.sp.val then s.pc else s.stk[j]) ∧
      t = { s with stk := t.stk, sp := t.sp, pc := t.pc }) := by
  by_cases hsp : s.sp.val < 16
  · obtain ⟨u, hexec, hu, hstk, heq⟩ := execCall_of_sp nnn hsp
    cases hexec.symm.trans h
    exact .inr ⟨hsp, hu, rfl, hstk, by rw [heq]; rfl⟩
  · have hfull : s.sp.val = 16 := by omega
    cases (execCall_of_full nnn hfull).symm.trans h
    exact .inl ⟨hfull, rfl⟩

/-- Everything the two key skips can do (R190, R191). -/
theorem execSkp_next {x : Reg} (h : execSkp x s = .next t) : (∃ f a, t = s.raise f a) ∨ ∃ c, t = s.skipIf c := by
  unfold execSkp at h
  split at h <;> cases h
  · exact .inr ⟨_, rfl⟩
  · exact .inl ⟨_, _, rfl⟩

theorem execSknp_next {x : Reg} (h : execSknp x s = .next t) : (∃ f a, t = s.raise f a) ∨ ∃ c, t = s.skipIf c := by
  unfold execSknp at h
  split at h <;> cases h
  · exact .inr ⟨_, rfl⟩
  · exact .inl ⟨_, _, rfl⟩

/-- Everything the key wait can do (R201). -/
theorem execLdVxK_next {x : Reg} (h : execLdVxK x s = .next t) :
    (pickKey s.keys = none ∧ t = s) ∨ ∃ k, pickKey s.keys = some k ∧ t = (s.setReg x (keyByte k)).advance := by
  unfold execLdVxK at h
  split at h <;> cases h
  next hnone => exact .inl ⟨hnone, rfl⟩
  next k hsome => exact .inr ⟨k, hsome, rfl⟩

/-- Behind the bounds check an instruction has taken its fault, or has had its effects on a range in memory (R65). -/
theorem withRange_next {n : Nat} (h : s.withRange n (.next u) = .next t) :
    (∃ f a, t = s.raise f a) ∨ ((n = 0 ∨ s.i.toNat + n ≤ memSize) ∧ t = u) := by
  obtain ⟨-, e⟩ | ⟨hr, e⟩ := s.withRange_cases n (.next u)
  · cases e.symm.trans h
    exact .inl ⟨_, _, rfl⟩
  · cases e.symm.trans h
    exact .inr ⟨hr, rfl⟩

/-- FX65 takes its fault, or changes registers, `I` and `PC` only (R208). -/
theorem execLdRegs_next {x : Reg} (h : execLdRegs x s = .next t) :
    (∃ f a, t = s.raise f a) ∨ ∃ v, t = (State.setIndex { s with v := v } (s.indexPast x)).advance := by
  refine (withRange_next h).imp_right fun ⟨_, ht⟩ => ?_
  unfold State.setRegs at ht
  exact ⟨_, ht⟩

end

end Sys2Proof.Machine

/-! PROOFS. What a fault and an instruction do to the fault status (60_exceptions.md R241, R243), and that every step has a next
state (10_state.md R47). -/

namespace Sys2Proof.Machine

open Sys2Proof Sys2Proof.Claim

/-- The cause codes are 1 to 6 (R241). -/
theorem Fault.code_bounds (f : Fault) : 1 ≤ f.code.toNat ∧ f.code.toNat ≤ 6 := by
  cases f <;> decide

/-- Neither `STATUS` nor `FCAUSE` nor `FINFO` changed. -/
def SameFaultStatus (s t : State) : Prop := t.status = s.status ∧ t.fcause = s.fcause ∧ t.finfo = s.finfo

/-- The instructions that R241 lists as raising a fault. -/
def MayFault : Instr → Prop
  | .ret | .call _ | .drw _ _ _ | .skp _ | .sknp _ | .ldB _ | .stRegs _ | .ldRegs _ => True
  | _ => False

section
variable {s t : State} {i : Instr}

theorem sameFaultStatus_skipIf (s : State) (c : Bool) : SameFaultStatus s (s.skipIf c) :=
  ⟨s.skipIf_status c, s.skipIf_fcause c, s.skipIf_finfo c⟩

/-- No instruction stops the model (R47). -/
theorem exec_next (i : Instr) (s : State) : ∃ t, exec i s = .next t := by
  cases i with
  | ret | call | skp | sknp | ldVxK =>
    simp only [exec, execRet, execCall, execSkp, execSknp, execLdVxK]
    split <;> exact ⟨_, rfl⟩
  | drw | ldB | stRegs | ldRegs => obtain ⟨-, e⟩ | ⟨-, e⟩ := s.withRange_cases _ _ <;> exact ⟨_, e⟩
  | cls | jp | jpV0 | seImm | sneImm | seReg | sneReg | ldImm | addImm | ldReg | or | and | xor | addReg | sub | shr | subn
  | shl | ldI | rnd | ldVxDt | ldDtVx | ldStVx | addI | ldF => exact ⟨_, rfl⟩

/-- An instruction leaves the fault status, or is one of those that R241 lists, and then it may have taken a fault and done
nothing else. -/
theorem exec_faultStatus (h : exec i s = .next t) : (MayFault i ∧ ∃ f a, t = s.raise f a) ∨ SameFaultStatus s t := by
  cases i with
  | ret =>
    obtain ⟨-, rfl⟩ | ⟨j, -, -, -, e⟩ := execRet_next h
    · exact .inl ⟨trivial, _, _, rfl⟩
    · rw [e]; exact .inr ⟨rfl, rfl, rfl⟩
  | call =>
    obtain ⟨-, rfl⟩ | ⟨-, -, -, -, e⟩ := execCall_next h
    · exact .inl ⟨trivial, _, _, rfl⟩
    · rw [e]; exact .inr ⟨rfl, rfl, rfl⟩
  | skp => exact (execSkp_next h).imp (⟨trivial, ·⟩) fun ⟨c, hc⟩ => hc ▸ sameFaultStatus_skipIf s c
  | sknp => exact (execSknp_next h).imp (⟨trivial, ·⟩) fun ⟨c, hc⟩ => hc ▸ sameFaultStatus_skipIf s c
  | ldVxK => obtain ⟨-, rfl⟩ | ⟨k, -, rfl⟩ := execLdVxK_next h <;> exact .inr ⟨rfl, rfl, rfl⟩
  | ldRegs => exact (execLdRegs_next h).imp (⟨trivial, ·⟩) fun ⟨_, ht⟩ => ht ▸ ⟨rfl, rfl, rfl⟩
  | drw | ldB | stRegs => exact (withRange_next h).imp (⟨trivial, ·⟩) fun ⟨_, hu⟩ => hu ▸ ⟨rfl, rfl, rfl⟩
  | seImm | sneImm | seReg | sneReg => cases h; exact .inr (sameFaultStatus_skipIf s _)
  | cls | jp | jpV0 | ldImm | addImm | ldReg | or | and | xor | addReg | sub | shr | subn | shl | ldI | rnd | ldVxDt | ldDtVx
  | ldStVx | addI | ldF => cases h; exact .inr ⟨rfl, rfl, rfl⟩

/-- Every step has a next state, in which it has taken a fault and done nothing else, or has left the fault status (R47). -/
theorem step_next (s : State) : ∃ t, step s = .next t ∧ ((∃ f a, t = s.raise f a) ∨ SameFaultStatus s t) := by
  obtain ⟨-, e⟩ | ⟨-, f, a, -, e⟩ | ⟨-, w, i, -, -, e⟩ | ⟨-, w, why, -, -, e⟩ := step_cases s
  · exact ⟨s, e, .inr ⟨rfl, rfl, rfl⟩⟩
  · exact ⟨_, e, .inl ⟨f, a, rfl⟩⟩
  · obtain ⟨t, ht⟩ := exec_next i s
    exact ⟨t, e.trans ht, (exec_faultStatus ht).imp_left And.right⟩
  · exact ⟨_, e, .inr ⟨rfl, rfl, rfl⟩⟩

end

/-- Settles O11: a step's next state is a fault taken, whose cause is 1 to 6, or has the status of the state before. -/
theorem everyStepHasANextState : Obligations.EveryStepHasANextState := fun s => by
  obtain ⟨t, ht, ⟨f, a, rfl⟩ | ⟨hstatus, -, -⟩⟩ := step_next s
  · exact ⟨_, ht, fun _ => .inr ⟨rfl, f.code_bounds⟩⟩
  · exact ⟨t, ht, fun hs => .inl (hstatus.trans hs)⟩

/-- A step on a FAULTED machine answers the same state, under every alias policy (R46). -/
theorem stepWith_of_faulted {s : State} (h : s.status = .faulted) (policy : AliasPolicy) : stepWith policy s = .next s := by
  simp [stepWith, h]

/-- Settles O10: what is kept along the schedule is that only the other agents' fields differ from the first state; its status
is then FAULTED, so a step changes nothing. -/
theorem faultedMachineStaysFaulted : Obligations.FaultedMachineStaysFaulted := by
  intro hw ops m m' hops hfault h
  refine performAll_keeps hw
    (fun n => n.machine = { m.machine with
      dt := n.machine.dt, st := n.machine.st, keys := n.machine.keys, dirty := n.machine.dirty })
    (fun op => op ≠ .reset ∧ ∀ prog, op ≠ .load prog) (fun op n n' r hop hn hp => ?_) ops m m' hops rfl h
  cases op with
  | reset => exact absurd rfl hop.1
  | load prog => exact absurd rfl (hop.2 prog)
  | step =>
    obtain ⟨t, ht, rfl, -⟩ := (perform_step hw n n' r).1 hp
    have hstatus : n.machine.status = .faulted := by rw [hn]; exact hfault
    cases (stepWith_of_faulted hstatus _).symm.trans ht
    exact hn
  | tick => cases hp; exact congrArg State.tick hn
  | setKey k b => cases hp; exact congrArg (·.setKey k b) hn
  | clearDirty => cases hp; exact congrArg State.clearDirty hn
  | readFrame => cases hp; exact hn

end Sys2Proof.Machine

/-! PROOFS. The invariant (10_state.md sections 5 and 10): one lemma per update of the state, then one case per instruction, then
one per operation. -/

namespace Sys2Proof.Machine

open Sys2Proof Sys2Proof.Claim

section
variable {s t u : State}

/-- The invariant speaks of memory, `PC`, the call stack and the fault status only. -/
theorem Inv.congr (h : Inv s) (ht : t = { s with
    v := t.v, i := t.i, dt := t.dt, st := t.st, fb := t.fb, dirty := t.dirty, keys := t.keys, draws := t.draws }) :
    Inv t := by
  rw [ht]
  exact ⟨h.memory, h.pcBound, h.returns, h.runningStatus, h.faultedStatus⟩

theorem Inv.raise (h : Inv s) (f : Fault) (a : Nat) : Inv (s.raise f a) where
  memory := h.memory
  pcBound := h.pcBound
  returns := h.returns
  runningStatus := nofun
  faultedStatus := fun _ => f.code_bounds

theorem Inv.setPc (h : Inv s) {w : Word} (hw : w.toNat ≤ 0x10FE) : Inv (s.setPc w) where
  memory := h.memory
  pcBound := hw
  returns := h.returns
  runningStatus := h.runningStatus
  faultedStatus := h.faultedStatus

theorem Inv.advance (h : Inv s) (hpc : s.pc.toNat ≤ 4094) : Inv s.advance :=
  h.setPc (by bv_omega)

theorem Inv.skipIf (h : Inv s) (hpc : s.pc.toNat ≤ 4094) (c : Bool) : Inv (s.skipIf c) := by
  cases c with
  | false => exact h.advance hpc
  | true => exact h.setPc (by bv_omega)

theorem Inv.setMem (h : Inv s) {m : Memory} (hm : Memory.wf m = true) : Inv { s with mem := m } where
  memory := hm
  pcBound := h.pcBound
  returns := h.returns
  runningStatus := h.runningStatus
  faultedStatus := h.faultedStatus

theorem Inv.storeBytes (h : Inv s) {a : Nat} {bs : List Byte} (hr : a + bs.length ≤ memSize) : Inv (s.storeBytes a bs) :=
  h.setMem (Memory.wf_writeBytes s.mem a bs h.memory hr)

/-- Behind the bounds check the effects need to keep the invariant for a range in memory only (R65). -/
theorem inv_of_withRange {n : Nat} (h : s.withRange n (.next u) = .next t) (hs : Inv s)
    (hu : n = 0 ∨ s.i.toNat + n ≤ memSize → Inv u) : Inv t := by
  obtain ⟨f, a, rfl⟩ | ⟨hr, rfl⟩ := withRange_next h
  · exact hs.raise f a
  · exact hu hr

/-- A return reads an address that is even and fetchable, and those below it stay so (R121). -/
theorem execRet_inv (hs : Inv s) (h : execRet s = .next t) : Inv t := by
  obtain ⟨-, rfl⟩ | ⟨j, hsp, hsp', hpc, e⟩ := execRet_next h
  · exact hs.raise _ _
  · obtain ⟨-, htop⟩ := hs.returns j (by omega)
    have hstk : t.stk = s.stk := by rw [e]
    refine ⟨by rw [e]; exact hs.memory, by rw [hpc]; bv_omega, fun k hk => ?_, by rw [e]; exact hs.runningStatus,
      by rw [e]; exact hs.faultedStatus⟩
    rw [hstk]
    exact hs.returns k (by omega)

theorem addrWord_le (nnn : Addr) : (addrWord nnn).toNat ≤ 0x10FE := by
  have := nnn.isLt
  rw [addrWord_toNat]
  omega

/-- "The largest value any instruction can put in `PC` is 0x10FE (BNNN)" (R43). -/
theorem State.indexedTarget_le (s : State) (nnn : Addr) : (s.indexedTarget nnn).toNat ≤ 0x10FE := by
  have := nnn.isLt
  have := (s.reg 0).isLt
  rw [s.indexedTarget_toNat]
  omega

/-- The address a call pushes is its own, which is even and fetchable (R121, R123). -/
theorem execCall_inv {nnn : Addr} (hs : Inv s) (heven : s.pc.toNat % 2 = 0) (hle : s.pc.toNat ≤ 4094)
    (h : execCall nnn s = .next t) : Inv t := by
  obtain ⟨-, rfl⟩ | ⟨-, hsp, hpc, hstk, e⟩ := execCall_next h
  · exact hs.raise _ _
  · refine ⟨by rw [e]; exact hs.memory, by rw [hpc]; exact addrWord_le nnn, fun j hj => ?_, by rw [e]; exact hs.runningStatus,
      by rw [e]; exact hs.faultedStatus⟩
    rw [hstk j]
    split
    · exact ⟨heven, hle⟩
    · exact hs.returns j (by omega)

/-- An instruction fetched from an even address in memory keeps the invariant. -/
theorem exec_inv {i : Instr} (hs : Inv s) (heven : s.pc.toNat % 2 = 0) (hle : s.pc.toNat ≤ 4094) (h : exec i s = .next t) :
    Inv t := by
  cases i with
  | jp nnn => cases h; exact hs.setPc (addrWord_le nnn)
  | jpV0 nnn => cases h; exact hs.setPc (s.indexedTarget_le nnn)
  | call => exact execCall_inv hs heven hle h
  | ret => exact execRet_inv hs h
  | skp => obtain ⟨f, a, rfl⟩ | ⟨c, rfl⟩ := execSkp_next h; exacts [hs.raise f a, hs.skipIf hle c]
  | sknp => obtain ⟨f, a, rfl⟩ | ⟨c, rfl⟩ := execSknp_next h; exacts [hs.raise f a, hs.skipIf hle c]
  | ldVxK => obtain ⟨-, rfl⟩ | ⟨k, -, rfl⟩ := execLdVxK_next h; exacts [hs, (hs.congr rfl).advance hle]
  | seImm | sneImm | seReg | sneReg => cases h; exact hs.skipIf hle _
  | ldB x =>
    exact inv_of_withRange h hs fun hr => (hs.storeBytes (by simpa [bcdDigits] using hr)).advance hle
  | stRegs x =>
    refine inv_of_withRange h hs fun hr => ((hs.storeBytes ?_).congr rfl).advance hle
    rw [s.regsUpTo_length]
    exact hr.resolve_left x.val.succ_ne_zero
  | ldRegs => obtain ⟨f, a, rfl⟩ | ⟨v, rfl⟩ := execLdRegs_next h; exacts [hs.raise f a, (hs.congr rfl).advance hle]
  | drw => exact inv_of_withRange h hs fun _ => (hs.congr rfl).advance hle
  | cls | ldImm | addImm | ldReg | or | and | xor | addReg | sub | shr | subn | shl | ldI | rnd | ldVxDt | ldDtVx
  | ldStVx | addI | ldF => cases h; exact (hs.congr rfl).advance hle

/-- A word is fetched only from an even address whose next one is in memory too (R62). -/
theorem fetch_ok {w : Word} (h : fetch s = .ok w) : s.pc.toNat % 2 = 0 ∧ s.pc.toNat ≤ 4094 ∧
    w = wordOfBytes (s.byteAt s.pc.toNat) (s.byteAt (s.pc.toNat + 1)) := by
  obtain ⟨-, e⟩ | ⟨-, -, e⟩ | ⟨heven, hle, e⟩ := fetch_cases s
  · cases e.symm.trans h
  · cases e.symm.trans h
  · cases e.symm.trans h
    exact ⟨heven, hle, rfl⟩

theorem step_inv (hs : Inv s) (h : step s = .next t) : Inv t := by
  obtain ⟨-, e⟩ | ⟨-, f, a, -, e⟩ | ⟨-, w, i, hw, -, e⟩ | ⟨-, w, why, hw, -, e⟩ := step_cases s
  · cases e.symm.trans h
    exact hs
  · cases e.symm.trans h
    exact hs.raise f a
  · obtain ⟨heven, hle, -⟩ := fetch_ok hw
    exact exec_inv hs heven hle (e.symm.trans h)
  · cases e.symm.trans h
    obtain ⟨-, hle, -⟩ := fetch_ok hw
    exact hs.advance hle

theorem inv_reset : Inv State.reset where
  memory := Memory.reset_wf
  pcBound := by decide
  returns := fun _ hj => absurd hj (Nat.not_lt_zero _)
  runningStatus := fun _ => ⟨rfl, rfl⟩
  faultedStatus := nofun

theorem inv_resetWith (f : Font) : Inv (State.resetWith f) := by
  rw [State.resetWith_eq]
  exact inv_reset.setMem (fontMemory_wf f)

/-- A load puts at most 3583 bytes at 512 on, so it stays inside memory (R285). -/
theorem Inv.load? (h : Inv s) {prog : List Byte} (hl : s.load? prog = some t) : Inv t := by
  unfold State.load? at hl
  split at hl
  next hlen =>
    cases hl
    exact h.storeBytes (bs := prog) (by simp only [maxProg, loadBase, memSize] at *; omega)
  next => cases hl

end

section
variable {hw : Params} {m m' : Session} {r : Response} {op : Operation}

theorem perform_load_inv {prog : List Byte} (hm : Inv m.machine) (h : perform hw (.load prog) m = .next (m', r)) :
    Inv m'.machine := by
  cases hp : m.phase with
  | fresh =>
    rw [perform_load_fresh hw m prog hp] at h
    split at h
    next s hload => cases h; exact hm.load? hload
    next => cases h; exact hm
  | loaded | started => simp [perform, hp] at h

/-- Every operation keeps the invariant, or sets it up anew. -/
theorem perform_inv (hm : Inv m.machine) (h : perform hw op m = .next (m', r)) : Inv m'.machine := by
  cases op with
  | reset => cases h; exact (inv_resetWith hw.font).congr rfl
  | load prog => exact perform_load_inv hm h
  | step =>
    obtain ⟨t, ht, rfl, -⟩ := (perform_step hw m m' r).1 h
    exact step_inv hm (step_eq_next_of_stepWith ht)
  | tick | setKey | clearDirty => cases h; exact hm.congr rfl
  | readFrame => cases h; exact hm

end

/-- Settles O12: the four things a step can be each keep the invariant, an instruction by `exec_inv`. -/
theorem stepKeepsInvariant : Obligations.StepKeepsInvariant := fun _ _ => step_inv

/-- Settles O13: only memory depends on the font, and it is canonical with every one. -/
theorem resetMeetsInvariant : Obligations.ResetMeetsInvariant := ⟨inv_reset, inv_resetWith⟩

/-- Settles O14: every operation keeps the invariant, so every schedule does. -/
theorem operationsKeepInvariant : Obligations.OperationsKeepInvariant := fun hw ops m m' =>
  performAll_keeps hw (fun n => Inv n.machine) (fun _ => True) (fun _ _ _ _ _ => perform_inv) ops m m' fun _ _ => trivial

end Sys2Proof.Machine

/-! PROOFS. The step cycle (10_state.md R41): the decoded instruction, the no-op of an unassigned word, the two fetch faults. -/

namespace Sys2Proof.Machine

open Sys2Proof Sys2Proof.Claim

section
variable {s t : State} {w : Word} {why : DecodeReject}

/-- Taking a fault is what R243 says. -/
theorem raised_raise (s : State) (f : Fault) (a : Nat) : Raised f.code.toNat a s (s.raise f a) :=
  ⟨rfl, rfl, BitVec.toNat_ofNat a 16, rfl⟩

theorem pcFrame_setPc (s : State) (w : Word) : PcFrame s (s.setPc w) := ⟨fun _ => rfl, fun _ => rfl, rfl⟩

/-- A machine with an unassigned word at `PC` advances (R230). -/
theorem step_eq_advance (hs : s.status = .running) (hw : fetch s = .ok w) (hd : decode w = .error why) :
    step s = .next s.advance := by
  simp [step, stepWith, hs, hw, hd, execUnassigned, Config.aliasPolicy]

theorem step_eq_raise {f : Fault} {a : Nat} (hs : s.status = .running) (hw : fetch s = .error (f, a)) :
    step s = .next (s.raise f a) := by
  simp [step, stepWith, hs, hw]

theorem decode_of_decodeBytes {hi lo : Byte} {i : Instr} (h : decodeBytes [hi, lo] = .ok (i, [])) :
    decode (wordOfBytes hi lo) = .ok i := by
  rw [decodeBytes] at h
  split at h
  next hd => cases h; exact hd
  next => cases h

end

/-- Settles O7: at an even `PC` up to 4094 the fetch answers the word of the two bytes, and a step executes what it decodes to. -/
theorem stepRunsDecodedInstruction : Obligations.StepRunsDecodedInstruction := by
  intro s i hs heven hle _ hdec
  obtain ⟨hodd, -⟩ | ⟨-, hbig, -⟩ | ⟨-, -, hw⟩ := fetch_cases s
  · omega
  · omega
  · exact step_eq_exec hs hw (decode_of_decodeBytes hdec)

/-- Settles O8: the step is the default advance. -/
theorem unassignedWordIsNoOp : Obligations.UnassignedWordIsNoOp := fun s _ _ hs hw hd =>
  ⟨_, step_eq_advance hs hw hd, advanced_of_next_advance rfl rfl, pcFrame_setPc s _⟩

/-- Settles O9: the fetch checks that `PC` is even before it checks the bound. -/
theorem fetchFaultsComeFirst : Obligations.FetchFaultsComeFirst := by
  intro s hs
  obtain ⟨hodd, e⟩ | ⟨heven, -, e⟩ | ⟨heven, hle, -⟩ := fetch_cases s
  · exact ⟨fun _ => ⟨_, step_eq_raise hs e, raised_raise s .fetchMisaligned _⟩, fun h => by omega⟩
  · exact ⟨fun h => by omega, fun _ _ => ⟨_, step_eq_raise hs e, raised_raise s .fetchBounds _⟩⟩
  · exact ⟨fun h => by omega, fun _ h => by omega⟩

end Sys2Proof.Machine

/-! PROOFS. Jumps, calls and returns (40_flow_0_1_2.md R121 to R123, 44_index_jump_random_A_B_C.md R171). -/

namespace Sys2Proof.Machine

open Sys2Proof Sys2Proof.Claim

/-- Settles O17: a return pops the top slot and changes `SP` and `PC` only; on an empty stack it takes its fault. -/
theorem retReturnsPastTheCall : Obligations.RetReturnsPastTheCall := by
  refine fun s => ⟨fun j hj => ?_, fun h => ⟨_, execRet_of_empty h, raised_raise s .stackUnderflow _⟩⟩
  obtain ⟨u, hexec, hsp, hu⟩ := execRet_of_sp hj
  refine ⟨_, hexec, hsp, BitVec.toNat_add _ _, ?_⟩
  rw [hu]
  exact ⟨fun _ => rfl, fun _ => rfl, rfl⟩

/-- Settles O18: both jumps set `PC` alone, so a jump to the address `PC` holds gives the same state. -/
theorem jumpsSetPc : Obligations.JumpsSetPc := by
  intro s nnn
  refine ⟨⟨_, rfl, addrWord_toNat nnn, pcFrame_setPc s _, fun h => ?_⟩,
    _, rfl, s.indexedTarget_toNat nnn, pcFrame_setPc s _⟩
  have hpc : addrWord nnn = s.pc := BitVec.eq_of_toNat_eq ((addrWord_toNat nnn).trans h)
  rw [hpc]
  rfl

/-- Settles O19: a call pushes its own address and changes the stack and `PC` only; on a full stack it takes its fault. -/
theorem callPushesItsOwnAddress : Obligations.CallPushesItsOwnAddress := by
  refine fun s nnn => ⟨fun j hj => ?_, fun h => ⟨_, execCall_of_full nnn h, raised_raise s .stackOverflow _⟩⟩
  obtain ⟨u, hexec, hsp, hstk, hu⟩ := execCall_of_sp nnn (hj ▸ j.isLt)
  refine ⟨_, hexec, hsp.trans (congrArg (· + 1) hj), (hstk j).trans (if_pos hj.symm), addrWord_toNat nnn, fun k hk => ?_, ?_⟩
  · exact (hstk k).trans (if_neg fun h => hk (Fin.ext (h.trans hj)))
  · rw [hu]
    exact ⟨fun _ => rfl, fun _ => rfl, rfl⟩

/-- Settles O20: the slot a call wrote is the top one when the matching return pops. -/
theorem returnComesBackAfterTheCall : Obligations.ReturnComesBackAfterTheCall := by
  intro s t u nnn hsp hcall husp hustk
  obtain ⟨v, hexec, hvsp, hvstk, -⟩ := execCall_of_sp nnn hsp
  cases hexec.symm.trans hcall
  obtain ⟨w, hret, hwsp, -⟩ := execRet_of_sp (s := u) (j := ⟨s.sp.val, hsp⟩) (husp ▸ hvsp)
  have htop : u.stk[s.sp.val] = s.pc := by rw [hustk]; exact (hvstk ⟨s.sp.val, hsp⟩).trans (if_pos rfl)
  refine ⟨_, hret, ?_, Fin.ext hwsp⟩
  rw [State.setPc_pc, BitVec.toNat_add]
  simp [htop]

end Sys2Proof.Machine

/-! PROOFS. The flag-writing operations of family 8 (43_alu_8.md R154 to R158), and register 15 as their operand (R160; log 5). -/

namespace Sys2Proof.Machine

open Sys2Proof Sys2Proof.Claim

theorem carryFlag_toNat (a b : Byte) : (carryFlag a b).toNat = if a.toNat + b.toNat > 255 then 1 else 0 := by
  simp [carryFlag, flagByte_toNat]

theorem noBorrowFlag_toNat (a b : Byte) : (noBorrowFlag a b).toNat = if a.toNat ≥ b.toNat then 1 else 0 := by
  simp [noBorrowFlag, flagByte_toNat]

theorem byte_sub_toNat (a b : Byte) : (a - b).toNat = (a.toNat + 256 - b.toNat) % 256 := by
  bv_omega

theorem byte_shiftRight_one_toNat (a : Byte) : (a >>> 1).toNat = a.toNat / 2 := by
  rw [BitVec.toNat_ushiftRight, Nat.shiftRight_eq_div_pow]

theorem byte_shiftLeft_one_toNat (a : Byte) : (a <<< 1).toNat = a.toNat * 2 % 256 := by
  rw [BitVec.toNat_shiftLeft, Nat.shiftLeft_eq]

/-- Result then flag: register 15 holds the flag in the end, register `X` the result unless it is register 15. -/
theorem next_resultThenFlag (s : State) (x : Reg) (r f : Byte) :
    ∃ t, (.next (s.resultThenFlag x r f).advance : Result) = .next t ∧ (x ≠ 15 → t.reg x = r) ∧ t.reg 15 = f ∧
      Advanced s t ∧ RegFrame [x, 15] s t := by
  refine ⟨_, rfl, fun hx => ?_, ?_, advanced_of_next_advance rfl rfl, fun k hk => ?_, fun _ => rfl, rfl⟩
  · rw [State.reg_advance, State.reg_resultThenFlag, if_neg hx, if_pos rfl]
  · rw [State.reg_advance, State.reg_resultThenFlag, if_pos rfl]
  · obtain ⟨hx, h15⟩ : k ≠ x ∧ k ≠ 15 := by simpa using hk
    rw [State.reg_advance, State.reg_resultThenFlag, if_neg h15, if_neg hx]

/-- Flag then result: register `X` holds the result in the end, register 15 the flag unless it is register `X`. -/
theorem next_flagThenResult (s : State) (x : Reg) (r f : Byte) :
    ∃ t, (.next (s.flagThenResult x r f).advance : Result) = .next t ∧ t.reg x = r ∧ (x ≠ 15 → t.reg 15 = f) ∧
      Advanced s t ∧ RegFrame [x, 15] s t := by
  refine ⟨_, rfl, ?_, fun hx => ?_, advanced_of_next_advance rfl rfl, fun k hk => ?_, fun _ => rfl, rfl⟩
  · rw [State.reg_advance, State.reg_flagThenResult, if_pos rfl]
  · rw [State.reg_advance, State.reg_flagThenResult, if_neg hx.symm, if_pos rfl]
  · obtain ⟨hx, h15⟩ : k ≠ x ∧ k ≠ 15 := by simpa using hk
    rw [State.reg_advance, State.reg_flagThenResult, if_neg hx, if_neg h15]

/-- The same two facts on numbers, for the operations that write the flag first. -/
theorem next_flagThenResult_toNat (s : State) (x : Reg) {r f : Byte} {n c : Nat} (hr : r.toNat = n) (hf : f.toNat = c) :
    ∃ t, (.next (s.flagThenResult x r f).advance : Result) = .next t ∧ (t.reg x).toNat = n ∧
      (x ≠ 15 → (t.reg 15).toNat = c) ∧ Advanced s t ∧ RegFrame [x, 15] s t := by
  obtain ⟨t, ht, hx, h15, hframe⟩ := next_flagThenResult s x r f
  exact ⟨t, ht, hx ▸ hr, fun h => h15 h ▸ hf, hframe⟩

/-- Settles O24: the sum is written first, so the carry remains in register 15. -/
theorem addSetsCarry : Obligations.AddSetsCarry := by
  intro s x y
  obtain ⟨t, ht, hx, h15, hframe⟩ := next_resultThenFlag s x (s.reg x + s.reg y) (carryFlag (s.reg x) (s.reg y))
  exact ⟨t, ht, fun h => by rw [hx h, BitVec.toNat_add], by rw [h15, carryFlag_toNat], hframe⟩

/-- Settles O25: the flag is written first, so the difference remains in register 15 if that is the destination. -/
theorem subtractSetsNoBorrow : Obligations.SubtractSetsNoBorrow := fun s x y =>
  ⟨next_flagThenResult_toNat s x (byte_sub_toNat (s.reg x) (s.reg y)) (noBorrowFlag_toNat (s.reg x) (s.reg y)),
    next_flagThenResult_toNat s x (byte_sub_toNat (s.reg y) (s.reg x)) (noBorrowFlag_toNat (s.reg y) (s.reg x))⟩

/-- Settles O26: the value shifted is that of register `Y`, the bit that becomes the flag is of the old register `X`. -/
theorem shiftsTakeValueFromYFlagFromX : Obligations.ShiftsTakeValueFromYFlagFromX := fun s x y =>
  ⟨next_flagThenResult_toNat s x (byte_shiftRight_one_toNat (s.reg y)) (lowBitFlag_toNat (s.reg x)),
    next_flagThenResult_toNat s x (byte_shiftLeft_one_toNat (s.reg y)) (highBitFlag_toNat (s.reg x))⟩

/-- Settles O27: every line is one of the three statements above at register 15. -/
theorem register15AsOperand : Obligations.Register15AsOperand := by
  intro s t z f a
  have add (x y) (h : exec (.addReg x y) s = .next t) := of_next (addSetsCarry s x y) h
  have sub (x y) (h : exec (.sub x y) s = .next t) := of_next (subtractSetsNoBorrow s x y).1 h
  have subn (x y) (h : exec (.subn x y) s = .next t) := of_next (subtractSetsNoBorrow s x y).2 h
  have shr (x y) (h : exec (.shr x y) s = .next t) := of_next (shiftsTakeValueFromYFlagFromX s x y).1 h
  have shl (x y) (h : exec (.shl x y) s = .next t) := of_next (shiftsTakeValueFromYFlagFromX s x y).2 h
  have hdouble : (if f + f > 255 then 1 else 0) = if f ≥ 128 then 1 else 0 := if_congr (by omega) rfl rfl
  have hself : (f + 256 - f) % 256 = 0 := by omega
  exact ⟨fun h => (add 15 z h).2.1, fun h hz => ⟨(add z 15 h).1 hz, (add z 15 h).2.1⟩,
    fun h => (add 15 15 h).2.1.trans hdouble,
    fun h => (sub 15 z h).1, fun h hz => ⟨(sub z 15 h).1, (sub z 15 h).2.1 hz⟩, fun h => (sub 15 15 h).1.trans hself,
    fun h => (shr 15 z h).1, fun h hz => ⟨(shr z 15 h).1, (shr z 15 h).2.1 hz⟩, fun h => (shr 15 15 h).1,
    fun h => (subn 15 z h).1, fun h hz => ⟨(subn z 15 h).1, (subn z 15 h).2.1 hz⟩, fun h => (subn 15 15 h).1.trans hself,
    fun h => (shl 15 z h).1, fun h hz => ⟨(shl z 15 h).1, (shl z 15 h).2.1 hz⟩, fun h => (shl 15 15 h).1⟩

end Sys2Proof.Machine

/-! PROOFS. The random byte (44_index_jump_random_A_B_C.md R172; log 11) and the keys (46_keys_E.md R190, R191, 47_misc_F.md
R201; logs 7, 8). -/

namespace Sys2Proof.Machine

open Sys2Proof Sys2Proof.Claim

theorem byte_and_and_not (a b : Byte) : a &&& b &&& ~~~b = 0 := by
  rw [BitVec.and_assoc, BitVec.and_not_self]
  exact BitVec.and_zero

/-- Settles O29: register `X` takes the drawn byte under the mask, and the count of draws goes up by one. -/
theorem randomByteIsMasked : Obligations.RandomByteIsMasked := by
  intro s x nn
  have hx : (s.drawRand.2.setReg x (s.drawRand.1 &&& nn)).advance.reg x = Config.rand s.draws &&& nn :=
    State.reg_setReg_same _ x _
  refine ⟨_, rfl, hx, ?_, rfl, advanced_of_next_advance rfl rfl, fun k hk => State.reg_setReg_other _ x k _ hk,
    fun _ => rfl, rfl⟩
  rw [hx, byte_and_and_not]

/-- A skip on a key's level. -/
theorem next_skipIf_key (s : State) (c : Bool) : ∃ t, (.next (s.skipIf c) : Result) = .next t ∧ PcFrame s t ∧
    t.pc.toNat = (s.pc.toNat + if c then 4 else 2) % 65536 :=
  ⟨_, rfl, pcFrame_skipIf s c, s.skipIf_pc_toNat c⟩

/-- The same skip on the key being up. -/
theorem next_skipIf_not_key (s : State) (c : Bool) : ∃ t, (.next (s.skipIf !c) : Result) = .next t ∧ PcFrame s t ∧
    t.pc.toNat = (s.pc.toNat + if c then 2 else 4) % 65536 :=
  ⟨_, rfl, pcFrame_skipIf s _, pc_of_next_skipIf_not rfl⟩

/-- Settles O33: a value up to 15 names a key, whose level decides; any other takes the fault. -/
theorem keySkipsReadTheKey : Obligations.KeySkipsReadTheKey := by
  intro s x
  refine ⟨fun k hk => ?_, fun h => ?_⟩
  · have hkey := (keyIndex_some (s.reg x) k).2 hk
    simp only [exec, execSkp, execSknp, hkey]
    exact ⟨next_skipIf_key s (s.key k), next_skipIf_not_key s (s.key k)⟩
  · have hnone := (keyIndex_none (s.reg x)).2 h
    simp only [exec, execSkp, execSknp, hnone]
    exact ⟨⟨_, rfl, raised_raise s .keyIndexRange _⟩, _, rfl, raised_raise s .keyIndexRange _⟩

theorem keyByte_toNat (k : Key) : (keyByte k).toNat = k.val := by
  have := k.isLt
  simp [keyByte]
  omega

/-- Settles O34: what FX0A stores is what `pickKey` answers, a pressed key if there is one. -/
theorem keyWaitStoresAPressedKey : Obligations.KeyWaitStoresAPressedKey := by
  refine fun s x => ⟨fun h => ?_, fun ⟨j, hj⟩ => ?_⟩
  · rw [exec, execLdVxK, (pickKey_none s.keys).2 h]
  · cases hpick : pickKey s.keys with
    | none => cases hj.symm.trans ((pickKey_none s.keys).1 hpick j)
    | some k =>
      have hk : s.key k = true := pickKey_some s.keys k hpick
      obtain ⟨t, ht, hx, hframe⟩ := next_setReg_advance s x (keyByte k)
      refine ⟨t, k, ?_, hk, hx ▸ keyByte_toNat k, hframe.1, hframe.2, fun l hl => (hl k).1 hk⟩
      rw [exec, execLdVxK, hpick]
      exact ht

end Sys2Proof.Machine

/-! PROOFS. The memory array and its bounds (20_memory.md R60 to R65): equal contents are equal lists, and the loop of byte stores
agrees with the range check. -/

namespace Sys2Proof.Machine

open Sys2Proof Sys2Proof.Claim

/-- A listed byte differs from the reset contents, and the rest of the list is canonical from the next address on. -/
theorem Memory.wfFrom_cons {low b : Nat} {v : Byte} {m : Memory} :
    Memory.wfFrom low ((b, v) :: m) = true ↔ low ≤ b ∧ b < 4096 ∧ v ≠ resetByte b ∧ Memory.wfFrom (b + 1) m = true := by
  simp only [Memory.wfFrom, Bool.and_eq_true, decide_eq_true_eq, and_assoc]
  exact Iff.rfl

theorem Memory.read_cons_same (b : Nat) (v : Byte) (m : Memory) : Memory.read ((b, v) :: m) b = v := if_pos rfl

theorem Memory.read_cons_other {a b : Nat} (h : b ≠ a) (v : Byte) (m : Memory) :
    Memory.read ((b, v) :: m) a = Memory.read m a := if_neg h

/-- The lowest listed address of one list is listed in the other too: it does not read as its reset contents. -/
theorem Memory.head_le_of_read_eq {low b c : Nat} {v u : Byte} {m k : Memory} (hm : Memory.wfFrom low ((b, v) :: m) = true)
    (hk : Memory.wfFrom low ((c, u) :: k) = true)
    (h : ∀ a, a < 4096 → Memory.read ((b, v) :: m) a = Memory.read ((c, u) :: k) a) : c ≤ b := by
  obtain ⟨-, hb, hv, -⟩ := Memory.wfFrom_cons.1 hm
  obtain ⟨-, hc, hu, hk'⟩ := Memory.wfFrom_cons.1 hk
  by_contra hlt
  have hread := h b hb
  rw [Memory.read_cons_same, Memory.read_below ((c, u) :: k) c b (Memory.wfFrom_cons.2 ⟨le_rfl, hc, hu, hk'⟩) (by omega)]
    at hread
  exact hv hread

theorem Memory.eq_of_read_eq {low : Nat} {m k : Memory} (hm : Memory.wfFrom low m = true) (hk : Memory.wfFrom low k = true)
    (h : ∀ a, a < 4096 → Memory.read m a = Memory.read k a) : m = k := by
  induction m generalizing low k with
  | nil =>
    cases k with
    | nil => rfl
    | cons d k =>
      obtain ⟨c, u⟩ := d
      obtain ⟨-, hc, hu, -⟩ := Memory.wfFrom_cons.1 hk
      exact absurd ((h c hc).trans (Memory.read_cons_same c u k)).symm hu
  | cons e m ih =>
    obtain ⟨b, v⟩ := e
    obtain ⟨-, hb, hv, hm'⟩ := Memory.wfFrom_cons.1 hm
    cases k with
    | nil => exact absurd ((Memory.read_cons_same b v m).symm.trans (h b hb)) hv
    | cons d k =>
      obtain ⟨c, u⟩ := d
      obtain ⟨-, hc, -, hk'⟩ := Memory.wfFrom_cons.1 hk
      obtain rfl : b = c :=
        Nat.le_antisymm (Memory.head_le_of_read_eq hk hm fun a ha => (h a ha).symm) (Memory.head_le_of_read_eq hm hk h)
      have hvu : v = u := by simpa only [Memory.read_cons_same] using h b hb
      have htail : m = k := ih hm' hk' fun a ha => by
        by_cases hab : b = a
        · subst hab
          rw [Memory.read_below m _ _ hm' (Nat.lt_succ_self b), Memory.read_below k _ _ hk' (Nat.lt_succ_self b)]
        · simpa only [Memory.read_cons_other hab] using h a ha
      rw [hvu, htail]

/-- Settles O51: lists that read alike have the same lowest address, the same byte there, and tails that read alike. -/
theorem equalBytesEqualMemory : Obligations.EqualBytesEqualMemory := fun _ _ => Memory.eq_of_read_eq

/-- In range every `MemWrite` of the loop succeeds (R64). -/
theorem State.memWriteSeq_in_range (s : State) (a : Nat) (bytes : List Byte) (h : a + bytes.length ≤ 4096) :
    s.memWriteSeq a bytes = .ok (s.storeBytes a bytes) := by
  induction bytes generalizing s a with
  | nil => rfl
  | cons b bs ih =>
    simp only [List.length_cons] at h
    rw [State.memWriteSeq, State.memWrite, if_pos (by omega)]
    exact ih (s.storeBytes a [b]) (a + 1) (by omega)

/-- Out of range the loop stops at the first address above 4095 (R65). -/
theorem State.memWriteSeq_out_of_range (s : State) (a : Nat) (bytes : List Byte) (hne : bytes ≠ [])
    (h : a + bytes.length > 4096) : s.memWriteSeq a bytes = .error (.dataBounds, max a 4096) := by
  induction bytes generalizing s a with
  | nil => exact absurd rfl hne
  | cons b bs ih =>
    simp only [List.length_cons] at h
    by_cases ha : a ≤ 4095
    · rw [State.memWriteSeq, State.memWrite, if_pos ha, max_eq_right (by omega)]
      have hbs : bs ≠ [] := List.ne_nil_of_length_pos (by omega)
      exact (ih (s.storeBytes a [b]) (a + 1) hbs (by omega)).trans (by rw [max_eq_right (by omega)])
    · rw [State.memWriteSeq, State.memWrite, if_neg ha, max_eq_left (by omega)]

/-- Settles O52: the loop succeeds in range and stops at the address the range check names out of it. -/
theorem byteWiseStoresMeetTheRangeCheck : Obligations.ByteWiseStoresMeetTheRangeCheck := by
  refine fun s a bytes => ⟨s.memWriteSeq_in_range a bytes, fun hne h => ⟨s.memWriteSeq_out_of_range a bytes hne h, ?_⟩⟩
  exact (boundsFault_some _ _ _).2 ⟨⟨by simpa using hne, by omega⟩, rfl⟩

end Sys2Proof.Machine

/-! PROOFS. The instructions that touch memory (45_draw_D.md, 47_misc_F.md R206 to R208): their bounds, what they store and
load, and the fetch after a store (20_memory.md R73). -/

namespace Sys2Proof.Machine

open Sys2Proof Sys2Proof.Claim

section
variable {s t : State} {x : Reg}

/-- An instruction behind the bounds check takes its fault for a range that passes 4095 (R65, R247). -/
theorem raised_of_outOfRange {n : Nat} (go : Result) (hn : n ≠ 0) (h : s.i.toNat + n - 1 > 4095) :
    ∃ t, s.withRange n go = .next t ∧ Raised 5 (max s.i.toNat 4096) s t :=
  ⟨_, State.withRange_of_outOfRange go hn h, raised_raise s .dataBounds _⟩

theorem State.byteAt_storeBytes_inside (hm : Memory.wf s.mem = true) {a : Nat} {bs : List Byte} (ha : a + bs.length ≤ 4096)
    {j : Nat} (hj : j < bs.length) : (s.storeBytes a bs).byteAt (a + j) = bs[j] :=
  Memory.read_writeBytes_inside s.mem a bs hm ha j hj

theorem State.byteAt_storeBytes_outside {a c : Nat} {bs : List Byte} (h : c < a ∨ a + bs.length ≤ c) :
    (s.storeBytes a bs).byteAt c = s.byteAt c :=
  Memory.read_writeBytes_outside s.mem a c bs h

theorem bcdDigits_toNat (b : Byte) {k : Nat} (hk : k < (bcdDigits b).length) :
    (bcdDigits b)[k].toNat = decimalDigit b.toNat k := by
  have hb := b.isLt
  have hk' : k < 3 := hk
  interval_cases k <;> simp [bcdDigits, decimalDigit] <;> omega

theorem State.regsUpTo_getElem {k : Reg} (hk : k ≤ x) (h : k.val < (s.regsUpTo x).length) :
    (s.regsUpTo x)[k.val] = s.reg k := by
  have hget := s.regsUpTo_get x k hk
  rwa [List.getElem?_eq_getElem h, Option.some_inj] at hget

theorem State.indexPast_toNat (h : s.i.toNat + x.val ≤ 4095) : (s.indexPast x).toNat = s.i.toNat + x.val + 1 := by
  have := x.isLt
  simp [State.indexPast, regCount]
  omega

theorem State.loadBytes_getD {a n j : Nat} (hj : j < n) (d : Byte) : (s.loadBytes a n).getD j d = s.byteAt (a + j) := by
  rw [List.getD_eq_getElem?_getD, State.loadBytes, Memory.readBytes_get s.mem a n j hj]
  rfl

theorem State.reg_setRegs_loadBytes {a n : Nat} {k : Reg} (hk : k.val < n) :
    (s.setRegs (s.loadBytes a n)).reg k = s.byteAt (a + k.val) := by
  rw [State.reg_setRegs, State.loadBytes_getD hk]

theorem State.reg_setRegs_above {a n : Nat} {k : Reg} (hk : n ≤ k.val) :
    (s.setRegs (s.loadBytes a n)).reg k = s.reg k := by
  rw [State.reg_setRegs, List.getD_eq_default]
  exact (Memory.readBytes_length s.mem a n).trans_le hk

/-- Loading registers, moving `I` and advancing changes nothing else. -/
theorem frame_setRegs_setIndex_advance {bs : List Byte} {w : Word} (ht : t = ((s.setRegs bs).setIndex w).advance) :
    Advanced s t ∧ (∀ a, t.byteAt a = s.byteAt a) ∧ t = { s with v := t.v, i := t.i, pc := t.pc } := by
  unfold State.setRegs at ht
  generalize Vector.ofFn _ = v at ht
  subst ht
  exact ⟨advanced_of_next_advance rfl rfl, fun _ => rfl, rfl⟩

end

/-- Settles O32: each range check comes before all effects; a draw of no rows passes it. -/
theorem dataBoundsIsPrecise : Obligations.DataBoundsIsPrecise := by
  intro s x y n
  refine ⟨fun hn => ⟨_, State.withRange_of_inRange (.inl hn), rfl, rfl, rfl⟩, fun hn h => raised_of_outOfRange _ hn h,
    fun h => raised_of_outOfRange _ (by decide) h, fun h => ?_, fun h => ?_⟩
  · exact raised_of_outOfRange _ (Nat.succ_ne_zero _) h
  · exact raised_of_outOfRange _ (Nat.succ_ne_zero _) h

/-- Settles O36: the three digits are stored from `I` on, and `I` stays. -/
theorem decimalDigitsStored : Obligations.DecimalDigitsStored := by
  intro s x hm h
  have hlen : s.i.toNat + (bcdDigits (s.reg x)).length ≤ 4096 := Nat.succ_le_succ h
  have digit (k : Nat) (hk : k < 3) :
      ((s.storeBytes s.i.toNat (bcdDigits (s.reg x))).advance.byteAt (s.i.toNat + k)).toNat = decimalDigit (s.reg x).toNat k :=
    (congrArg BitVec.toNat (State.byteAt_storeBytes_inside hm hlen hk)).trans (bcdDigits_toNat (s.reg x) hk)
  exact ⟨_, State.withRange_of_inRange (.inr hlen), digit 0 (by decide), digit 1 (by decide), digit 2 (by decide),
    fun a ha => State.byteAt_storeBytes_outside (ha.imp_right id), advanced_of_next_advance rfl rfl, fun _ => rfl, rfl⟩

/-- Settles O37: the registers are stored from `I` on, and `I` moves past them. -/
theorem registersStored : Obligations.RegistersStored := by
  intro s x hm h
  have hlen : s.i.toNat + (s.regsUpTo x).length ≤ 4096 := by rw [s.regsUpTo_length]; omega
  refine ⟨_, State.withRange_of_inRange (.inr (Nat.succ_le_succ h)), fun k hk => ?_, fun a ha => ?_, State.indexPast_toNat h,
    advanced_of_next_advance rfl rfl, fun _ => rfl, rfl⟩
  · have hk' : k.val < (s.regsUpTo x).length := by rw [s.regsUpTo_length]; exact Nat.lt_succ_of_le hk
    exact (State.byteAt_storeBytes_inside hm hlen hk').trans (State.regsUpTo_getElem hk hk')
  · refine State.byteAt_storeBytes_outside (ha.imp_right fun h => ?_)
    rw [s.regsUpTo_length]
    exact h

/-- Settles O38: the registers up to `X` are loaded from `I` on, the others kept, and `I` moves past the last byte. -/
theorem registersLoaded : Obligations.RegistersLoaded := by
  intro s x h
  refine ⟨_, State.withRange_of_inRange (.inr (Nat.succ_le_succ h)), fun k hk => ?_, fun k hk => ?_,
    State.indexPast_toNat h, frame_setRegs_setIndex_advance rfl⟩
  · rw [State.reg_advance, State.reg_setIndex]
    exact State.reg_setRegs_loadBytes (Nat.lt_succ_of_le hk)
  · rw [State.reg_advance, State.reg_setIndex]
    exact State.reg_setRegs_above hk

/-- Settles O39: FX65 reads the bytes that `registersStored` says FX55 left. -/
theorem storeThenLoadRestoresRegisters : Obligations.StoreThenLoadRestoresRegisters := by
  intro s t u x hm h ht hmem hi
  obtain ⟨hstored, -⟩ := of_next (registersStored s x hm h) ht
  obtain ⟨w, hw, hloaded, -⟩ := registersLoaded u x (hi ▸ h)
  refine ⟨w, hw, fun k hk => ?_⟩
  rw [hloaded k hk, ← hstored k hk, hi, State.byteAt, State.byteAt, hmem]

/-- The next word is made of the bytes that memory then holds, whatever has been stored where (R73). -/
theorem nextWordHolds_of_byteAt {s t : State} {n : Nat} {new : Nat → Nat} (heven : s.pc.toNat % 2 = 0)
    (hle : s.pc.toNat + 2 ≤ 4094) (hpc : t.pc.toNat = s.pc.toNat + 2)
    (hin : ∀ k, k < n → (t.byteAt (s.i.toNat + k)).toNat = new k)
    (hout : ∀ a, a < s.i.toNat ∨ s.i.toNat + n ≤ a → t.byteAt a = s.byteAt a) : NextWordHolds s t n new := by
  obtain ⟨hodd, -⟩ | ⟨-, hbig, -⟩ | ⟨-, -, hw⟩ := fetch_cases t
  · omega
  · omega
  · rw [hpc, show s.pc.toNat + 2 + 1 = s.pc.toNat + 3 from rfl] at hw
    have hword := wordOfBytes_toNat (t.byteAt (s.pc.toNat + 2)) (t.byteAt (s.pc.toNat + 3))
    have hlo := (t.byteAt (s.pc.toNat + 3)).isLt
    refine ⟨_, hw, fun k hk e => ?_, fun k hk e => ?_, fun h => ?_, fun h => ?_⟩
    · have := hin k hk
      rw [e] at this
      omega
    · have := hin k hk
      rw [e] at this
      omega
    · rw [← hout _ h]
      omega
    · rw [← hout _ h]
      omega

/-- Settles O40: the two stores leave memory as `registersStored` and `decimalDigitsStored` say, and the next step fetches
there. -/
theorem nextFetchSeesTheStore : Obligations.NextFetchSeesTheStore := by
  intro s x hm hs hle
  refine ⟨fun hw hr => ?_, fun hw hr => ?_⟩
  · obtain ⟨heven, -⟩ := fetch_ok hw
    obtain ⟨t, ht, hstored, hout, -, hadv, -⟩ := registersStored s x hm hr
    have hpc : t.pc.toNat = s.pc.toNat + 2 := hadv.trans (Nat.mod_eq_of_lt (by omega))
    refine ⟨t, (step_eq_exec hs hw (decode_encode _)).trans ht, hpc,
      nextWordHolds_of_byteAt heven hle hpc (fun k hk => ?_) hout⟩
    have hk16 : (Fin.ofNat 16 k).val = k := Nat.mod_eq_of_lt (by omega)
    have := hstored (Fin.ofNat 16 k) (Fin.le_def.2 (by omega))
    rw [hk16] at this
    rw [this]
  · obtain ⟨heven, -⟩ := fetch_ok hw
    obtain ⟨t, ht, h0, h1, h2, hout, hadv, -⟩ := decimalDigitsStored s x hm hr
    have hpc : t.pc.toNat = s.pc.toNat + 2 := hadv.trans (Nat.mod_eq_of_lt (by omega))
    refine ⟨t, (step_eq_exec hs hw (decode_encode _)).trans ht, hpc,
      nextWordHolds_of_byteAt heven hle hpc (fun k hk => ?_) hout⟩
    interval_cases k
    · exact h0
    · exact h1
    · exact h2

end Sys2Proof.Machine

/-! PROOFS. The draw without its loops (45_draw_D.md R180 to R182): the loops flip a list of cells, no cell twice, and the list
holds exactly the selected pixels. -/

namespace Sys2Proof.Machine

open Sys2Proof Sys2Proof.Claim

/-- A pixel's place: row and column. -/
abbrev PixelCell := Fin 32 × Fin 64

/-- The cells of a list flipped one after the other, collisions noted. -/
def flipCells (p : FrameBuffer × Bool) (cells : List PixelCell) : FrameBuffer × Bool :=
  cells.foldl (fun q cell => flipPixel q cell.1 cell.2) p

/-- The cells that one sprite row flips: the loop over `col` of R180. -/
def rowCells (x0 : Nat) (r : Fin 32) (b : Byte) : List PixelCell :=
  ((List.range 8).filter (spriteBit b)).map fun col => (r, Fin.ofNat 64 (x0 + col))

/-- The cells that the sprite rows from row `y0` on flip: the loop over `row` of R180. -/
def spriteCells (x0 y0 : Nat) : List Byte → List PixelCell
  | [] => []
  | b :: bs => rowCells x0 (Fin.ofNat 32 y0) b ++ spriteCells x0 (y0 + 1) bs

theorem drawRow_eq_flipCells (p : FrameBuffer × Bool) (x0 : Nat) (r : Fin 32) (b : Byte) :
    drawRow p x0 r b = flipCells p (rowCells x0 r b) := by
  rw [flipCells, rowCells, List.foldl_map, List.foldl_filter]
  rfl

theorem drawRows_eq_flipCells (p : FrameBuffer × Bool) (x0 y0 : Nat) (bs : List Byte) :
    drawRows p x0 y0 bs = flipCells p (spriteCells x0 y0 bs) := by
  induction bs generalizing p y0 with
  | nil => rfl
  | cons b bs ih => rw [drawRows, ih, drawRow_eq_flipCells, spriteCells, flipCells, flipCells, flipCells, List.foldl_append]

/-- A cell of the list is flipped, for no cell is in it twice; every other cell stays. -/
theorem flipCells_pixel (p : FrameBuffer × Bool) {cells : List PixelCell} (h : cells.Nodup) (r : Fin 32) (c : Fin 64) :
    pixel (flipCells p cells).1 r c = if (r, c) ∈ cells then !pixel p.1 r c else pixel p.1 r c := by
  induction cells generalizing p with
  | nil => rfl
  | cons cell cells ih =>
    obtain ⟨hnot, hcells⟩ := List.nodup_cons.1 h
    rw [flipCells, List.foldl_cons, ← flipCells, ih _ hcells, (flipPixel_spec p cell.1 r cell.2 c).1]
    by_cases e : (r, c) = cell
    · subst e
      simp [hnot]
    · have e' : ¬ (r = cell.1 ∧ c = cell.2) := fun ⟨hr, hc⟩ => e (Prod.ext hr hc)
      simp [e, e']

/-- A collision is noted exactly if a cell of the list was set before. -/
theorem flipCells_collision (p : FrameBuffer × Bool) {cells : List PixelCell} (h : cells.Nodup) :
    (flipCells p cells).2 = true ↔ p.2 = true ∨ ∃ cell ∈ cells, pixel p.1 cell.1 cell.2 = true := by
  induction cells generalizing p with
  | nil => simp [flipCells]
  | cons cell cells ih =>
    obtain ⟨hnot, hcells⟩ := List.nodup_cons.1 h
    have kept : ∀ d ∈ cells, pixel (flipPixel p cell.1 cell.2).1 d.1 d.2 = pixel p.1 d.1 d.2 := fun d hd => by
      have hne : ¬ (d.1 = cell.1 ∧ d.2 = cell.2) := fun ⟨h1, h2⟩ => hnot (Prod.ext h1 h2 ▸ hd)
      rw [(flipPixel_spec p cell.1 d.1 cell.2 d.2).1, if_neg hne]
    have hrest : (∃ d ∈ cells, pixel (flipPixel p cell.1 cell.2).1 d.1 d.2 = true) ↔
        ∃ d ∈ cells, pixel p.1 d.1 d.2 = true :=
      exists_congr fun d => and_congr_right fun hd => by rw [kept d hd]
    rw [flipCells, List.foldl_cons, ← flipCells, ih _ hcells, hrest, (flipPixel_spec p cell.1 cell.1 cell.2 cell.2).2]
    simp [or_assoc]

theorem mem_rowCells {x0 : Nat} {r r' : Fin 32} {b : Byte} {c : Fin 64} : (r, c) ∈ rowCells x0 r' b ↔
    r = r' ∧ ∃ col, col < 8 ∧ c.val = (x0 + col) % 64 ∧ b.getLsbD (7 - col) = true := by
  simp only [rowCells, List.mem_map, List.mem_filter, List.mem_range, spriteBit, Prod.mk.injEq, Fin.ext_iff, Fin.val_ofNat]
  constructor
  · rintro ⟨col, ⟨hcol, hbit⟩, hr, hc⟩
    exact ⟨hr.symm, col, hcol, hc.symm, hbit⟩
  · rintro ⟨hr, col, hcol, hc, hbit⟩
    exact ⟨col, ⟨hcol, hbit⟩, hr.symm, hc.symm⟩

theorem mem_spriteCells {x0 y0 : Nat} {bs : List Byte} {r : Fin 32} {c : Fin 64} : (r, c) ∈ spriteCells x0 y0 bs ↔
    ∃ row col, ∃ h : row < bs.length, col < 8 ∧ r.val = (y0 + row) % 32 ∧ c.val = (x0 + col) % 64 ∧
      bs[row].getLsbD (7 - col) = true := by
  induction bs generalizing y0 with
  | nil => simp [spriteCells]
  | cons b bs ih =>
    rw [spriteCells, List.mem_append, mem_rowCells, ih]
    constructor
    · rintro (⟨rfl, col, hcol, hc, hbit⟩ | ⟨row, col, hrow, hcol, hr, hc, hbit⟩)
      · exact ⟨0, col, Nat.succ_pos _, hcol, rfl, hc, hbit⟩
      · exact ⟨row + 1, col, Nat.succ_lt_succ hrow, hcol, by rw [hr]; congr 1; omega, hc, hbit⟩
    · rintro ⟨row, col, hrow, hcol, hr, hc, hbit⟩
      cases row with
      | zero => exact .inl ⟨Fin.ext hr, col, hcol, hc, hbit⟩
      | succ row => exact .inr ⟨row, col, Nat.lt_of_succ_lt_succ hrow, hcol, by rw [hr]; congr 1; omega, hc, hbit⟩

/-- Eight columns modulo 64 do not meet. -/
theorem nodup_rowCells (x0 : Nat) (r : Fin 32) (b : Byte) : (rowCells x0 r b).Nodup := by
  refine List.Nodup.map_on (fun col hcol col' hcol' h => ?_) (List.nodup_range.filter _)
  have hlt : col < 8 := List.mem_range.1 (List.mem_of_mem_filter hcol)
  have hlt' : col' < 8 := List.mem_range.1 (List.mem_of_mem_filter hcol')
  have hmod : (x0 + col) % 64 = (x0 + col') % 64 := congrArg (fun cell => cell.2.val) h
  omega

/-- At most 32 rows modulo 32 do not meet. -/
theorem nodup_spriteCells (x0 y0 : Nat) {bs : List Byte} (h : bs.length ≤ 32) : (spriteCells x0 y0 bs).Nodup := by
  induction bs generalizing y0 with
  | nil => exact List.nodup_nil
  | cons b bs ih =>
    rw [List.length_cons] at h
    refine List.Nodup.append (nodup_rowCells x0 _ b) (ih (y0 + 1) (by omega)) ?_
    rintro ⟨r, c⟩ hhead htail
    obtain ⟨rfl, -⟩ := mem_rowCells.1 hhead
    obtain ⟨row, -, hrow, -, hr, -⟩ := mem_spriteCells.1 htail
    have hmod : y0 % 32 = (y0 + 1 + row) % 32 := hr
    omega

section
variable {s : State} {x y : Reg} {n : Fin 16}

/-- The cells of a draw. -/
def State.drawnCells (s : State) (x y : Reg) (n : Fin 16) : List PixelCell :=
  spriteCells ((s.reg x).toNat % 64) ((s.reg y).toNat % 32) (s.spriteRows n)

theorem State.drawn_eq_flipCells (s : State) (x y : Reg) (n : Fin 16) :
    s.drawn x y n = flipCells (s.fb, false) (s.drawnCells x y n) := drawRows_eq_flipCells _ _ _ _

theorem State.spriteRows_length (s : State) (n : Fin 16) : (s.spriteRows n).length = n.val := Memory.readBytes_length _ _ _

theorem State.spriteRows_getElem {row : Nat} (h : row < n.val) (h' : row < (s.spriteRows n).length) :
    (s.spriteRows n)[row] = s.byteAt (s.i.toNat + row) := by
  have hget := Memory.readBytes_get s.mem s.i.toNat n.val row h
  exact Option.some_inj.1 ((List.getElem?_eq_getElem h').symm.trans hget)

theorem nodup_drawnCells (s : State) (x y : Reg) (n : Fin 16) : (s.drawnCells x y n).Nodup :=
  nodup_spriteCells _ _ (by rw [s.spriteRows_length]; omega)

/-- The cells of a draw are the selected pixels (R180, R181). -/
theorem mem_drawnCells {r : Fin 32} {c : Fin 64} : (r, c) ∈ s.drawnCells x y n ↔ Selected s x y n r c := by
  rw [State.drawnCells, mem_spriteCells]
  constructor
  · rintro ⟨row, col, hrow, hcol, hr, hc, hbit⟩
    have hn : row < n.val := s.spriteRows_length n ▸ hrow
    refine ⟨row, col, hn, hcol, by omega, by omega, ?_⟩
    rwa [← State.spriteRows_getElem hn hrow]
  · rintro ⟨row, col, hn, hcol, hr, hc, hbit⟩
    have hrow : row < (s.spriteRows n).length := s.spriteRows_length n ▸ hn
    refine ⟨row, col, hrow, hcol, by omega, by omega, ?_⟩
    rwa [State.spriteRows_getElem hn hrow]

/-- A draw flips the selected pixels and no others. -/
theorem State.drawn_pixel_of_selected {r : Fin 32} {c : Fin 64} (h : Selected s x y n r c) :
    pixel (s.drawn x y n).1 r c = !pixel s.fb r c := by
  rw [State.drawn_eq_flipCells, flipCells_pixel _ (nodup_drawnCells s x y n), if_pos (mem_drawnCells.2 h)]

theorem State.drawn_pixel_of_not_selected {r : Fin 32} {c : Fin 64} (h : ¬ Selected s x y n r c) :
    pixel (s.drawn x y n).1 r c = pixel s.fb r c := by
  rw [State.drawn_eq_flipCells, flipCells_pixel _ (nodup_drawnCells s x y n), if_neg (mem_drawnCells.not.2 h)]

/-- A draw collides exactly if a selected pixel was set before. -/
theorem State.drawn_collision : (s.drawn x y n).2 = true ↔ ∃ r c, Selected s x y n r c ∧ pixel s.fb r c = true := by
  rw [State.drawn_eq_flipCells, flipCells_collision _ (nodup_drawnCells s x y n)]
  simp [mem_drawnCells]

theorem collisionFlag_eq_one (hit : Bool) : collisionFlag hit = 1 ↔ hit = true := by cases hit <;> decide

theorem collisionFlag_eq_zero (hit : Bool) : collisionFlag hit = 0 ↔ ¬ hit = true := by cases hit <;> decide

/-- The state a draw leaves that passes its range check. -/
def State.afterDraw (s : State) (x y : Reg) (n : Fin 16) : State :=
  ((s.setReg flagReg (collisionFlag (s.drawn x y n).2)).present (s.drawn x y n).1).advance

theorem exec_drw_of_inRange (h : InRange s n.val) : exec (.drw x y n) s = .next (s.afterDraw x y n) :=
  State.withRange_of_inRange h

theorem State.afterDraw_flag (s : State) (x y : Reg) (n : Fin 16) :
    (s.afterDraw x y n).reg 15 = collisionFlag (s.drawn x y n).2 := s.reg_setReg_same flagReg _

theorem State.afterDraw_reg_other {k : Reg} (hk : k ≠ 15) : (s.afterDraw x y n).reg k = s.reg k :=
  s.reg_setReg_other flagReg k _ hk

/-- Which pixels a draw selects depends on the registers, `I` and memory alone. -/
theorem selected_congr {t : State} (hv : t.v = s.v) (hi : t.i = s.i) (hm : t.mem = s.mem) (r : Fin 32) (c : Fin 64) :
    Selected t x y n r c ↔ Selected s x y n r c := by
  simp only [Selected, State.reg, State.byteAt, hv, hi, hm]

end

/-- Settles O30: the loops flip the selected pixels, and the flag is the collision they note. -/
theorem drawFlipsSelectedPixels : Obligations.DrawFlipsSelectedPixels := by
  intro s x y n hr
  refine ⟨_, exec_drw_of_inRange hr, fun r c h => State.drawn_pixel_of_selected h,
    fun r c h => State.drawn_pixel_of_not_selected h, fun h => ?_, fun h => ?_, rfl, advanced_of_next_advance rfl rfl,
    fun k hk => State.afterDraw_reg_other hk, fun _ => rfl, rfl⟩
  · rw [s.afterDraw_flag, collisionFlag_eq_one]
    exact State.drawn_collision.2 h
  · rw [s.afterDraw_flag, collisionFlag_eq_zero]
    exact State.drawn_collision.not.2 h

/-- Settles O31: the second draw selects the same pixels, so it flips them back, and collides where the first did not. -/
theorem drawTwiceRestoresTheFrame : Obligations.DrawTwiceRestoresTheFrame := by
  intro s t x y n hr ht
  cases (exec_drw_of_inRange hr).symm.trans ht
  obtain ⟨u, hu⟩ : ∃ u : State, u = { s.afterDraw x y n with v := s.v } := ⟨_, rfl⟩
  rw [← hu]
  have hfb : u.fb = (s.drawn x y n).1 := hu ▸ rfl
  have hi : u.i = s.i := hu ▸ rfl
  have hsel := selected_congr (x := x) (y := y) (n := n) (s := s) (t := u) (hu ▸ rfl) hi (hu ▸ rfl)
  refine ⟨u.afterDraw x y n, exec_drw_of_inRange (by rwa [InRange, hi]), fun r c => ?_, ?_⟩
  · show pixel (u.drawn x y n).1 r c = pixel s.fb r c
    by_cases h : Selected s x y n r c
    · rw [State.drawn_pixel_of_selected ((hsel r c).2 h), hfb, State.drawn_pixel_of_selected h, Bool.not_not]
    · rw [State.drawn_pixel_of_not_selected ((hsel r c).not.2 h), hfb, State.drawn_pixel_of_not_selected h]
  · rw [u.afterDraw_flag, collisionFlag_eq_one, State.drawn_collision]
    refine exists_congr fun r => exists_congr fun c => ?_
    rw [hsel r c]
    refine and_congr_right fun h => ?_
    rw [hfb, State.drawn_pixel_of_selected h, Bool.not_eq_true']

end Sys2Proof.Machine

/-! PROOFS. The writers of each piece of state (the tables of 10_state.md section 1): the footprint of every instruction, then one
lemma per piece. -/

namespace Sys2Proof.Machine

open Sys2Proof Sys2Proof.Claim

section
variable {s t u : State}

/-- What an instruction may change, as the tables of 10_state.md list its kind as a writer; a fault taken included. -/
def Footprint : Instr → State → State → Prop
  | .cls, s, t => t = { s with fb := t.fb, dirty := t.dirty, pc := t.pc }
  | .jp _, s, t | .jpV0 _, s, t | .seImm _ _, s, t | .sneImm _ _, s, t | .seReg _ _, s, t | .sneReg _ _, s, t =>
    t = { s with pc := t.pc }
  | .ret, s, t => t = { s with sp := t.sp, pc := t.pc, status := t.status, fcause := t.fcause, finfo := t.finfo }
  | .call _, s, t =>
    t = { s with stk := t.stk, sp := t.sp, pc := t.pc, status := t.status, fcause := t.fcause, finfo := t.finfo }
  | .skp _, s, t | .sknp _, s, t => t = { s with pc := t.pc, status := t.status, fcause := t.fcause, finfo := t.finfo }
  | .ldI _, s, t | .addI _, s, t | .ldF _, s, t => t = { s with i := t.i, pc := t.pc }
  | .ldDtVx _, s, t => t = { s with dt := t.dt, pc := t.pc }
  | .ldStVx _, s, t => t = { s with st := t.st, pc := t.pc }
  | .rnd _ _, s, t => t = { s with v := t.v, pc := t.pc, draws := t.draws }
  | .drw _ _ _, s, t => t = { s with
      v := t.v, fb := t.fb, dirty := t.dirty, pc := t.pc, status := t.status, fcause := t.fcause, finfo := t.finfo }
  | .ldB _, s, t => t = { s with mem := t.mem, pc := t.pc, status := t.status, fcause := t.fcause, finfo := t.finfo }
  | .stRegs _, s, t =>
    t = { s with mem := t.mem, i := t.i, pc := t.pc, status := t.status, fcause := t.fcause, finfo := t.finfo }
  | .ldRegs _, s, t => t = { s with v := t.v, i := t.i, pc := t.pc, status := t.status, fcause := t.fcause, finfo := t.finfo }
  | _, s, t => t = { s with v := t.v, pc := t.pc }

theorem exec_footprint {i : Instr} (h : exec i s = .next t) : Footprint i s t := by
  cases i with
  | ret => obtain ⟨-, rfl⟩ | ⟨j, -, -, -, e⟩ := execRet_next h; exacts [rfl, by rw [e]; rfl]
  | call => obtain ⟨-, rfl⟩ | ⟨-, -, -, -, e⟩ := execCall_next h; exacts [rfl, by rw [e]; rfl]
  | skp => obtain ⟨f, a, rfl⟩ | ⟨c, rfl⟩ := execSkp_next h; exacts [rfl, by rw [s.skipIf_eq c]; rfl]
  | sknp => obtain ⟨f, a, rfl⟩ | ⟨c, rfl⟩ := execSknp_next h; exacts [rfl, by rw [s.skipIf_eq c]; rfl]
  | ldVxK => obtain ⟨-, rfl⟩ | ⟨k, -, rfl⟩ := execLdVxK_next h <;> rfl
  | drw | ldB | stRegs => obtain ⟨f, a, rfl⟩ | ⟨-, rfl⟩ := withRange_next h <;> rfl
  | ldRegs => obtain ⟨f, a, rfl⟩ | ⟨v, rfl⟩ := execLdRegs_next h <;> rfl
  | seImm | sneImm | seReg | sneReg => cases h; exact s.skipIf_eq _
  | cls | jp | jpV0 | ldImm | addImm | ldReg | or | and | xor | addReg | sub | shr | subn | shl | ldI | rnd | ldVxDt | ldDtVx
  | ldStVx | addI | ldF => cases h; rfl

/-- An instruction that writes one register leaves the others. -/
theorem reg_of_next_setReg {x k : Reg} {b : Byte} (h : (.next (u.setReg x b).advance : Result) = .next t) (hk : k ≠ x) :
    t.reg k = u.reg k := by
  cases h
  exact u.reg_setReg_other x k b hk

theorem reg_of_next_flagThenResult {x k : Reg} {r f : Byte} (h : (.next (s.flagThenResult x r f).advance : Result) = .next t)
    (hk : ¬ (k = x ∨ k = 15)) : t.reg k = s.reg k := by
  obtain ⟨-, -, -, hframe, -⟩ := of_next (next_flagThenResult s x r f) h
  exact hframe k (by simpa using hk)

/-- A register keeps its value unless the instruction may write it (R20, R22). -/
theorem exec_reg {i : Instr} (h : exec i s = .next t) {k : Reg} (hk : ¬ MayWriteReg i k) : t.reg k = s.reg k := by
  cases i with
  | ldImm | addImm | ldReg | or | and | xor | ldVxDt => exact reg_of_next_setReg h hk
  | rnd => exact reg_of_next_setReg (u := s.drawRand.2) h hk
  | ldVxK =>
    obtain ⟨-, rfl⟩ | ⟨j, -, rfl⟩ := execLdVxK_next h
    · rfl
    · exact reg_of_next_setReg rfl hk
  | addReg x y =>
    obtain ⟨-, -, -, hframe, -⟩ := of_next (next_resultThenFlag s x _ _) h
    exact hframe k (by simpa using (show ¬ (k = x ∨ k = 15) from hk))
  | sub | shr | subn | shl => exact reg_of_next_flagThenResult h hk
  | drw x y n =>
    obtain ⟨f, a, rfl⟩ | ⟨-, rfl⟩ := withRange_next h
    · rfl
    · exact State.afterDraw_reg_other (x := x) (y := y) (n := n) hk
  | ldRegs x =>
    obtain ⟨f, a, rfl⟩ | ⟨-, rfl⟩ := withRange_next h
    · rfl
    · rw [State.reg_advance, State.reg_setIndex]
      exact State.reg_setRegs_above (Nat.succ_le_of_lt (not_le.1 hk))
  | cls | ret | jp | call | seImm | sneImm | seReg | sneReg | ldI | jpV0 | skp | sknp | ldDtVx | ldStVx | addI | ldF | ldB
  | stRegs => exact s.reg_eq t k (congrArg State.v (exec_footprint h) :)

/-- `I` keeps its value but for ANNN, FX1E, FX29, FX55 and FX65 (R24). -/
theorem exec_i {i : Instr} (h : exec i s = .next t) (hldI : ∀ nnn, i ≠ .ldI nnn)
    (hi : ∀ x, i ≠ .addI x ∧ i ≠ .ldF x ∧ i ≠ .stRegs x ∧ i ≠ .ldRegs x) : t.i = s.i := by
  have e := exec_footprint h
  cases i with
  | ldI nnn => exact absurd rfl (hldI nnn)
  | addI x => exact absurd rfl (hi x).1
  | ldF x => exact absurd rfl (hi x).2.1
  | stRegs x => exact absurd rfl (hi x).2.2.1
  | ldRegs x => exact absurd rfl (hi x).2.2.2
  | _ => exact (congrArg State.i e :)

/-- Only a call writes a stack slot (R25). -/
theorem exec_stk {i : Instr} (h : exec i s = .next t) (hi : ∀ nnn, i ≠ .call nnn) : t.stk = s.stk := by
  have e := exec_footprint h
  cases i with
  | call nnn => exact absurd rfl (hi nnn)
  | _ => exact (congrArg State.stk e :)

theorem exec_sp {i : Instr} (h : exec i s = .next t) (hcall : ∀ nnn, i ≠ .call nnn) (hret : i ≠ .ret) : t.sp = s.sp := by
  have e := exec_footprint h
  cases i with
  | call nnn => exact absurd rfl (hcall nnn)
  | ret => exact absurd rfl hret
  | _ => exact (congrArg State.sp e :)

theorem exec_dt {i : Instr} (h : exec i s = .next t) (hi : ∀ x, i ≠ .ldDtVx x) : t.dt = s.dt := by
  have e := exec_footprint h
  cases i with
  | ldDtVx x => exact absurd rfl (hi x)
  | _ => exact (congrArg State.dt e :)

theorem exec_st {i : Instr} (h : exec i s = .next t) (hi : ∀ x, i ≠ .ldStVx x) : t.st = s.st := by
  have e := exec_footprint h
  cases i with
  | ldStVx x => exact absurd rfl (hi x)
  | _ => exact (congrArg State.st e :)

/-- Only FX33 and FX55 store (R30). -/
theorem exec_mem {i : Instr} (h : exec i s = .next t) (hi : ∀ x, i ≠ .ldB x ∧ i ≠ .stRegs x) : t.mem = s.mem := by
  have e := exec_footprint h
  cases i with
  | ldB x => exact absurd rfl (hi x).1
  | stRegs x => exact absurd rfl (hi x).2
  | _ => exact (congrArg State.mem e :)

/-- Only 00E0 and DXYN write the frame buffer and `DIRTY` (R27, R28). -/
theorem exec_fb_dirty {i : Instr} (h : exec i s = .next t) (hcls : i ≠ .cls) (hdrw : ∀ x y n, i ≠ .drw x y n) :
    t.fb = s.fb ∧ t.dirty = s.dirty := by
  have e := exec_footprint h
  cases i with
  | cls => exact absurd rfl hcls
  | drw x y n => exact absurd rfl (hdrw x y n)
  | _ => exact ⟨(congrArg State.fb e :), (congrArg State.dirty e :)⟩

theorem exec_draws {i : Instr} (h : exec i s = .next t) (hi : ∀ x nn, i ≠ .rnd x nn) : t.draws = s.draws := by
  have e := exec_footprint h
  cases i with
  | rnd x nn => exact absurd rfl (hi x nn)
  | _ => exact (congrArg State.draws e :)

end

/-- Settles O41: one lemma per piece of state, most of them read off the footprint of the instruction. -/
theorem eachPieceHasOnlyItsWriters : Obligations.EachPieceHasOnlyItsWriters := by
  intro i s t h
  refine ⟨fun _ => exec_reg h, exec_i h, exec_stk h, exec_sp h, exec_dt h, exec_st h, fun hi a => ?_, exec_fb_dirty h,
    (exec_keepsKeysAndDirty h).keys, fun hcall hret hdrw hrest => (exec_faultStatus h).resolve_left fun ⟨hf, _⟩ => ?_, exec_draws h⟩
  · rw [State.byteAt, State.byteAt, exec_mem h hi]
  · cases i with
    | call nnn => exact hcall nnn rfl
    | ret => exact hret rfl
    | drw x y n => exact hdrw x y n rfl
    | skp x | sknp x | ldB x | stRegs x | ldRegs x => simpa using hrest x
    | _ => exact hf

end Sys2Proof.Machine

/-! PROOFS. The dirty protocol and the redraw bit (60_exceptions.md R264, 10_state.md R45; log 12): which steps draw, and what a
step leaves in `DIRTY`. -/

namespace Sys2Proof.Machine

open Sys2Proof Sys2Proof.Claim

/-- The instruction draws to its end: 00E0, and DXYN whose range lies in memory (R45). -/
def drawsToEnd (s : State) : Instr → Bool
  | .cls => true
  | .drw _ _ n => (boundsFault s.i.toNat n.val).isNone
  | _ => false

section
variable {s t : State} {w : Word} {i : Instr}

theorem drew_eq_drawsToEnd (hs : s.status = .running) (hw : fetch s = .ok w) (hd : decode w = .ok i) :
    drew s = drawsToEnd s i := by
  simp only [drew, hs, hw, hd]
  cases i <;> rfl

theorem drew_of_faulted (hs : s.status = .faulted) : drew s = false := by
  simp [drew, hs]

theorem drew_of_fetch_error {e : FaultInfo} (hw : fetch s = .error e) : drew s = false := by
  unfold drew
  split
  · rfl
  · rw [hw]

theorem drew_of_unassigned {why : DecodeReject} (hw : fetch s = .ok w) (hd : decode w = .error why) : drew s = false := by
  unfold drew
  split
  · rfl
  · simp [hw, hd]

/-- A draw behind its bounds check: its fault, which draws nothing, or its effects, which set `DIRTY` and keep the status. -/
theorem execDrw_dirty_status {x y : Reg} {n : Fin 16} (h : execDrw x y n s = .next t) :
    ((boundsFault s.i.toNat n.val).isNone = false ∧ t.dirty = s.dirty ∧ t.status = .faulted) ∨
    ((boundsFault s.i.toNat n.val).isNone = true ∧ t.dirty = true ∧ t.status = s.status) := by
  unfold execDrw State.withRange at h
  split at h <;> cases h
  next e => exact .inl ⟨by rw [e]; rfl, rfl, rfl⟩
  next e => exact .inr ⟨by rw [e]; rfl, rfl, rfl⟩

/-- An instruction sets `DIRTY` if it draws to its end, and leaves it otherwise (R28). -/
theorem exec_dirty (h : exec i s = .next t) : t.dirty = (drawsToEnd s i || s.dirty) := by
  by_cases hcls : i = .cls
  · subst hcls
    cases h
    rfl
  by_cases hdrw : ∃ x y n, i = .drw x y n
  · obtain ⟨x, y, n, rfl⟩ := hdrw
    obtain ⟨hn, hd, -⟩ | ⟨hn, hd, -⟩ := execDrw_dirty_status h
    · rw [hd, drawsToEnd, hn, Bool.false_or]
    · rw [hd, drawsToEnd, hn, Bool.true_or]
  · rw [(exec_fb_dirty h hcls fun x y n e => hdrw ⟨x, y, n, e⟩).2]
    cases i with
    | cls => exact absurd rfl hcls
    | drw x y n => exact absurd ⟨x, y, n, rfl⟩ hdrw
    | _ => rfl

theorem exec_status_of_drawsToEnd (h : exec i s = .next t) (hd : drawsToEnd s i = true) : t.status = s.status := by
  cases i with
  | cls => cases h; rfl
  | drw x y n =>
    obtain ⟨hn, -⟩ | ⟨-, -, hs⟩ := execDrw_dirty_status h
    · cases hn.symm.trans hd
    · exact hs
  | _ => cases hd

/-- A step sets `DIRTY` if it draws, and leaves it otherwise (R264). -/
theorem step_dirty (h : step s = .next t) : t.dirty = (drew s || s.dirty) := by
  obtain ⟨hs, e⟩ | ⟨-, f, a, hw, e⟩ | ⟨hs, w, i, hw, hd, e⟩ | ⟨-, w, why, hw, hd, e⟩ := step_cases s
  · cases e.symm.trans h
    rw [drew_of_faulted hs, Bool.false_or]
  · cases e.symm.trans h
    rw [drew_of_fetch_error hw, Bool.false_or]
    rfl
  · rw [drew_eq_drawsToEnd hs hw hd]
    exact exec_dirty (e.symm.trans h)
  · cases e.symm.trans h
    rw [drew_of_unassigned hw hd, Bool.false_or]
    rfl

/-- A step that draws does not fault. -/
theorem running_of_drew (h : step s = .next t) (hdrew : drew s = true) : t.status = .running := by
  obtain ⟨hs, -⟩ | ⟨-, f, a, hw, -⟩ | ⟨hs, w, i, hw, hd, e⟩ | ⟨-, w, why, hw, hd, -⟩ := step_cases s
  · cases (drew_of_faulted hs).symm.trans hdrew
  · cases (drew_of_fetch_error hw).symm.trans hdrew
  · rw [drew_eq_drawsToEnd hs hw hd] at hdrew
    exact (exec_status_of_drawsToEnd (e.symm.trans h) hdrew).trans hs
  · cases (drew_of_unassigned hw hd).symm.trans hdrew

theorem drew_of_drw {x y : Reg} {n : Fin 16} (hs : s.status = .running) (hw : fetch s = .ok w)
    (hd : decode w = .ok (.drw x y n)) (h : step s = .next t) (ht : t.status = .running) : drew s = true := by
  rw [drew_eq_drawsToEnd hs hw hd]
  obtain ⟨-, -, hf⟩ | ⟨hn, -⟩ := execDrw_dirty_status ((step_eq_exec hs hw hd).symm.trans h)
  · cases ht.symm.trans hf
  · exact hn

theorem drew_of_other (hw : fetch s = .ok w) (hcls : decode w ≠ .ok .cls) (hdrw : ∀ x y n, decode w ≠ .ok (.drw x y n)) :
    drew s = false := by
  cases hs : s.status with
  | faulted => exact drew_of_faulted hs
  | running =>
    cases hd : decode w with
    | error why => exact drew_of_unassigned hw hd
    | ok i =>
      rw [drew_eq_drawsToEnd hs hw hd]
      cases i with
      | cls => exact absurd hd hcls
      | drw x y n => exact absurd hd (hdrw x y n)
      | _ => rfl

theorem redrawNeeded_pulse (s t : State) : redrawNeeded .pulse s t = drew s := Bool.or_false _

theorem redrawNeeded_level (h : step s = .next t) : redrawNeeded .level s t = t.dirty := by
  show (drew s || t.dirty) = t.dirty
  rw [step_dirty h, ← Bool.or_assoc, Bool.or_self]

end

/-- Settles O47: a step leaves in `DIRTY` whether it drew or `DIRTY` was set; no other operation but two clears it. -/
theorem dirtyProtocol : Obligations.DirtyProtocol := by
  refine ⟨fun s t h hd => ?_, fun s t h hd => ?_, fun hw ops m m' hops hm h => ?_⟩
  · rw [step_dirty h, hd, Bool.true_or]
  · rw [step_dirty h, hd, Bool.false_or]
  · exact performAll_keeps hw (fun n => n.machine.dirty = true) (fun op => op ≠ .clearDirty ∧ op ≠ .reset)
      (fun op n n' r hop hn hp => perform_dirty hp hop.2 hop.1 hn) ops m m' hops hm h

/-- Settles O48: the response is whether the step drew, or, under `level`, `DIRTY` after it, which a draw sets. -/
theorem redrawNeededByMode : Obligations.RedrawNeededByMode := by
  intro hw s t p hstep
  have h := step_eq_next_of_stepWith hstep
  refine ⟨(perform_step hw ⟨s, p⟩ ⟨t, .started⟩ _).2 ⟨t, hstep, rfl, rfl⟩,
    fun w hs hf hd mode => redrawNeeded_of_drew (drew_of_fetch_cls hs hf hd) mode t,
    fun w x y n hs hf hd ht mode => redrawNeeded_of_drew (drew_of_drw hs hf hd h ht) mode t,
    fun w _ hf hcls hdrw => (redrawNeeded_pulse s t).trans (drew_of_other hf hcls hdrw), fun ht => ?_, redrawNeeded_level h⟩
  rw [redrawNeeded_pulse, ← Bool.not_eq_true]
  exact fun hd => by cases ht.symm.trans (running_of_drew h hd)

end Sys2Proof.Machine

/-! PROOFS. The states a step gives back, and the end of a run (70_reset_and_hazards.md R296; log 21). -/

namespace Sys2Proof.Machine

open Sys2Proof Sys2Proof.Claim

section
variable {s t : State} {w : Word} {i : Instr}

theorem selfJump_iff (hw : fetch s = .ok w) (hd : decode w = .ok i) : s.selfJump = true ↔
    (∃ nnn, i = .jp nnn ∧ nnn.toNat = s.pc.toNat) ∨ (∃ nnn, i = .jpV0 nnn ∧ nnn.toNat + (s.reg 0).toNat = s.pc.toNat) := by
  simp only [State.selfJump, hw, hd]
  cases i <;> simp

theorem pressedKeys_isEmpty (keys : Vector Bool 16) : (pressedKeys keys).isEmpty = true ↔ pickKey keys = none := by
  rw [pickKey_none]
  simp [pressedKeys]

theorem idleKeyWait_iff (hw : fetch s = .ok w) (hd : decode w = .ok i) : s.idleKeyWait = true ↔
    (∃ x, i = .ldVxK x) ∧ pickKey s.keys = none := by
  simp only [State.idleKeyWait, hw, hd, ← pressedKeys_isEmpty]
  cases i <;> simp

theorem not_selfJump_of_not_decoded (h : ∀ w, fetch s = .ok w → ∀ i, decode w ≠ .ok i) :
    s.selfJump = false ∧ s.idleKeyWait = false := by
  cases hw : fetch s with
  | error e => simp [State.selfJump, State.idleKeyWait, hw]
  | ok w =>
    cases hd : decode w with
    | ok i => exact absurd hd (h w hw i)
    | error why => simp [State.selfJump, State.idleKeyWait, hw, hd]

/-- Going on by 2 or 4 changes `PC`. -/
theorem pc_ne_advanced (p : Word) {n : Nat} (h0 : 0 < n) (h4 : n ≤ 4) : p.toNat ≠ (p.toNat + n) % 65536 := by
  have := p.isLt
  omega

theorem pc_ne_skip (p : Word) (c : Prop) [Decidable c] :
    p.toNat ≠ (p.toNat + if c then 4 else 2) % 65536 ∧ p.toNat ≠ (p.toNat + if c then 2 else 4) % 65536 := by
  split <;> exact ⟨pc_ne_advanced p (by decide) (by decide), pc_ne_advanced p (by decide) (by decide)⟩

/-- An instruction that gives back a RUNNING state is a jump to its own address or a key wait without a key: every other one
moves `PC` on, but for call and return, which move `SP`. -/
theorem exec_fixed (hs : s.status = .running) (h : exec i s = .next s) :
    (∃ nnn, i = .jp nnn ∧ nnn.toNat = s.pc.toNat) ∨ (∃ nnn, i = .jpV0 nnn ∧ nnn.toNat + (s.reg 0).toNat = s.pc.toNat) ∨
      (∃ x, i = .ldVxK x) ∧ pickKey s.keys = none := by
  have hpc := exec_pcAfter h hs
  cases i with
  | jp nnn => exact .inl ⟨nnn, rfl, hpc.symm⟩
  | jpV0 nnn => exact .inr (.inl ⟨nnn, rfl, hpc.symm⟩)
  | ldVxK x =>
    obtain ⟨hnone, -⟩ | ⟨k, -, e⟩ := execLdVxK_next h
    · exact .inr (.inr ⟨⟨x, rfl⟩, hnone⟩)
    · exact absurd (congrArg (fun u => u.pc.toNat) e) (by simpa using pc_ne_advanced s.pc (n := 2) (by decide) (by decide))
  | ret =>
    obtain ⟨-, e⟩ | ⟨j, hsp, hsp', -⟩ := execRet_next h
    · cases hs.symm.trans (congrArg State.status e)
    · omega
  | call nnn =>
    obtain ⟨-, e⟩ | ⟨-, hsp, -⟩ := execCall_next h
    · cases hs.symm.trans (congrArg State.status e)
    · omega
  | seImm | seReg => exact absurd hpc (pc_ne_skip s.pc _).1
  | sneImm | sneReg => exact absurd hpc (pc_ne_skip s.pc _).2
  | skp =>
    obtain ⟨k, -, hpc⟩ := hpc
    exact absurd hpc (pc_ne_skip s.pc _).1
  | sknp =>
    obtain ⟨k, -, hpc⟩ := hpc
    exact absurd hpc (pc_ne_skip s.pc _).2
  | _ => exact absurd hpc (pc_ne_advanced s.pc (n := 2) (by decide) (by decide))

theorem exec_jp_self {nnn : Addr} (h : nnn.toNat = s.pc.toNat) : exec (.jp nnn) s = .next s := by
  obtain ⟨⟨t, ht, -, -, hself⟩, -⟩ := jumpsSetPc s nnn
  rw [ht, hself h]

theorem exec_jpV0_self {nnn : Addr} (h : nnn.toNat + (s.reg 0).toNat = s.pc.toNat) : exec (.jpV0 nnn) s = .next s := by
  have hpc : s.indexedTarget nnn = s.pc := BitVec.eq_of_toNat_eq ((s.indexedTarget_toNat nnn).trans h)
  rw [exec, execJpV0, hpc]
  rfl

theorem exec_ldVxK_idle {x : Reg} (h : pickKey s.keys = none) : exec (.ldVxK x) s = .next s := by
  rw [exec, execLdVxK, h]

/-- From a RUNNING state a step gives back the state exactly at a self-jump and in an idle key wait. -/
theorem step_fixed_iff (hs : s.status = .running) : step s = .next s ↔ s.selfJump = true ∨ s.idleKeyWait = true := by
  obtain ⟨hf, -⟩ | ⟨-, f, a, hw, e⟩ | ⟨-, w, i, hw, hd, e⟩ | ⟨-, w, why, hw, hd, e⟩ := step_cases s
  · cases hs.symm.trans hf
  · have hno := not_selfJump_of_not_decoded (s := s) fun w h => by cases hw.symm.trans h
    simp only [hno.1, hno.2, Bool.false_eq_true, or_self, iff_false]
    exact fun h => not_running_of_raise (e.symm.trans h) hs
  · rw [e, selfJump_iff hw hd, idleKeyWait_iff hw hd, or_assoc]
    refine ⟨exec_fixed hs, ?_⟩
    rintro (⟨nnn, rfl, h⟩ | ⟨nnn, rfl, h⟩ | ⟨⟨x, rfl⟩, h⟩)
    · exact exec_jp_self h
    · exact exec_jpV0_self h
    · exact exec_ldVxK_idle h
  · have hno := not_selfJump_of_not_decoded (s := s) fun w' h i hi => by
      cases hw.symm.trans h
      cases hd.symm.trans hi
    simp only [hno.1, hno.2, Bool.false_eq_true, or_self, iff_false]
    exact fun h => pc_ne_advanced s.pc (n := 2) (by decide) (by decide) (advanced_of_next_advance (e.symm.trans h) rfl)

end

/-- Settles O50: on a FAULTED machine a step changes nothing, on a RUNNING one `step_fixed_iff` says where. -/
theorem fixedPointsOfStep : Obligations.FixedPointsOfStep := by
  intro s
  cases hs : s.status with
  | faulted => exact iff_of_true (stepWith_of_faulted hs _) (.inl rfl)
  | running => simpa using step_fixed_iff hs

theorem pickKey_none_of_idleKeyWait {s : State} (h : s.idleKeyWait = true) : pickKey s.keys = none := by
  unfold State.idleKeyWait at h
  split at h
  · cases h
  · split at h
    · exact (pressedKeys_isEmpty s.keys).1 h
    · cases h

/-- The other agents keep a RUNNING self-jump: none of them writes a register, a byte, `PC` or `STATUS` (R5, R296). -/
theorem external_keeps_selfJump {hw : Params} {ops : List Operation} {m m' : Session}
    (hops : ∀ op ∈ ops, op.external = true) (hm : m.machine.status = .running ∧ m.machine.selfJump = true)
    (h : performAll hw ops m = .next m') : m'.machine.status = .running ∧ m'.machine.selfJump = true := by
  refine performAll_keeps hw (fun n => n.machine.status = .running ∧ n.machine.selfJump = true)
    (fun op => op.external = true) (fun op n n' r hop hn hp => ?_) ops m m' hops hm h
  cases op with
  | reset | load | step => cases hop
  | tick | setKey | clearDirty | readFrame => cases hp; exact hn

/-- Settles O49: no schedule of the other agents ends a self-jump, and one key pressed ends an idle key wait. -/
theorem quiescentExactlyAtSelfJumps : Obligations.QuiescentExactlyAtSelfJumps := by
  refine fun s => ⟨fun ⟨hs, hq⟩ => ⟨hs, ?_⟩, fun ⟨hs, hself⟩ => ⟨hs, fun ops p m hops h => ?_⟩⟩
  · have hfixed : step (s.setKey 0 true) = .next (s.setKey 0 true) :=
      hq [.setKey 0 true] .started ⟨s.setKey 0 true, .started⟩ (by simp [Operation.external]) rfl
    refine ((step_fixed_iff (s := s.setKey 0 true) hs).1 hfixed).resolve_right fun hidle => ?_
    have hup := (pickKey_none _).1 (pickKey_none_of_idleKeyWait hidle) 0
    simp at hup
  · obtain ⟨hrun, hjump⟩ := external_keeps_selfJump hops ⟨hs, hself⟩ h
    exact (step_fixed_iff hrun).2 (.inl hjump)

end Sys2Proof.Machine

/-! PROOFS. The strict alias policy (48_unassigned.md R231; log 4). -/

namespace Sys2Proof.Machine

open Sys2Proof Sys2Proof.Claim

/-- Settles O53: the two policies differ in the step that executes an alias word and nowhere else. -/
theorem strictPolicyRefusesAliasWordsOnly : Obligations.StrictPolicyRefusesAliasWordsOnly := by
  refine fun s => ⟨fun w hs hw hd => by simp [stepWith, hs, hw, hd, execUnassigned], fun hno => ?_⟩
  obtain ⟨hs, e⟩ | ⟨hs, f, a, hw, e⟩ | ⟨hs, w, i, hw, hd, e⟩ | ⟨hs, w, why, hw, hd, e⟩ := step_cases s
  · rw [e, stepWith_of_faulted hs]
  · simp [e, stepWith, hs, hw]
  · simp [e, stepWith, hs, hw, hd]
  · cases why with
    | aliasWord => exact absurd hd (hno w hs hw)
    | unknownWord | truncated => simp [e, stepWith, hs, hw, hd, execUnassigned]

end Sys2Proof.Machine

/-! PROOFS. What no instruction reads: the sound timer (10_state.md R26) and the stack slots above the top (R25). One simulation
serves both: two machines that differ there alone take the same step. -/

namespace Sys2Proof.Machine

open Sys2Proof Sys2Proof.Claim

/-- The state with another sound timer and other stack slots. -/
def State.withUnread (s : State) (b : Byte) (k : Vector Word 16) : State := { s with st := b, stk := k }

/-- The stack slots in use hold the same addresses. -/
def SameLiveSlots (s : State) (k : Vector Word 16) : Prop := ∀ j : Fin 16, j.val < s.sp.val → k[j] = s.stk[j]

/-- From `s` and `t`, which differ at most in the sound timer and in stale slots, the steps to `s'` and `t'` are the same: the
two differ at most there again, and in neither of the two if `s` and `t` did not. -/
structure SameStep (s t s' t' : State) : Prop where
  frame : t' = s'.withUnread t'.st t'.stk
  live : SameLiveSlots s' t'.stk
  st : t.st = s.st → t'.st = s'.st
  stk : t.stk = s.stk → t'.stk = s'.stk

section
variable {s s' u : State} {b : Byte} {k : Vector Word 16} {i : Instr}

theorem sameStep_raise (h : SameLiveSlots s k) (f : Fault) (a : Nat) :
    SameStep s (s.withUnread b k) (s.raise f a) ((s.withUnread b k).raise f a) := ⟨rfl, h, id, id⟩

theorem sameStep_skipIf (h : SameLiveSlots s k) (c : Bool) :
    SameStep s (s.withUnread b k) (s.skipIf c) ((s.withUnread b k).skipIf c) := by
  cases c <;> exact ⟨rfl, h, id, id⟩

/-- Behind the bounds check, which both machines pass or both fail, the effects have to be the same (R65). -/
theorem sameStep_of_withRange {n : Nat} {v : State} (h : s.withRange n (.next u) = .next s') (hk : SameLiveSlots s k)
    (hv : SameStep s (s.withUnread b k) u v) :
    ∃ t', (s.withUnread b k).withRange n (.next v) = .next t' ∧ SameStep s (s.withUnread b k) s' t' := by
  obtain ⟨⟨hn, hr⟩, e⟩ | ⟨hr, e⟩ := s.withRange_cases n (.next u)
  · cases e.symm.trans h
    exact ⟨_, State.withRange_of_outOfRange (s := s.withUnread b k) _ hn hr, sameStep_raise hk _ _⟩
  · cases e.symm.trans h
    exact ⟨v, State.withRange_of_inRange (s := s.withUnread b k) hr, hv⟩

/-- A return reads the top slot, which is in use. -/
theorem execRet_sameStep (h : execRet s = .next s') (hk : SameLiveSlots s k) :
    ∃ t', execRet (s.withUnread b k) = .next t' ∧ SameStep s (s.withUnread b k) s' t' := by
  obtain ⟨hsp, rfl⟩ | ⟨j, hsp, hsp', hpc, e⟩ := execRet_next h
  · exact ⟨_, execRet_of_empty (s := s.withUnread b k) hsp, sameStep_raise hk _ _⟩
  · obtain ⟨v, hexec, hv, heq⟩ := execRet_of_sp (s := s.withUnread b k) (j := j) hsp
    have hlive : k[j] = s.stk[j] := hk j (by omega)
    have hvsp : v.sp = s'.sp := Fin.ext (hv.trans hsp'.symm)
    refine ⟨_, hexec, ⟨?_, fun l hl => ?_, fun hst => ?_, fun hstk => ?_⟩⟩
    · rw [heq, e, hvsp, hpc, ← hlive]; rfl
    · rw [State.setPc_stk, heq, e]
      exact hk l (by omega)
    · rw [heq, e]; exact hst
    · rw [heq, e]; exact hstk

/-- A call writes the same address into the same slot of both machines. -/
theorem execCall_sameStep {nnn : Addr} (h : execCall nnn s = .next s') (hk : SameLiveSlots s k) :
    ∃ t', execCall nnn (s.withUnread b k) = .next t' ∧ SameStep s (s.withUnread b k) s' t' := by
  obtain ⟨hsp, rfl⟩ | ⟨hsp, hsp', hpc, hstk, e⟩ := execCall_next h
  · exact ⟨_, execCall_of_full (s := s.withUnread b k) nnn hsp, sameStep_raise hk _ _⟩
  · obtain ⟨v, hexec, hv, hvstk, heq⟩ := execCall_of_sp (s := s.withUnread b k) nnn hsp
    have hvsp : v.sp = s'.sp := Fin.ext (hv.trans hsp'.symm)
    refine ⟨_, hexec, ⟨?_, fun j hj => ?_, fun hst => ?_, fun heqk => ?_⟩⟩
    · rw [heq, e, hvsp, hpc]; rfl
    · refine (hvstk j).trans (Eq.trans ?_ (hstk j).symm)
      by_cases htop : j.val = s.sp.val
      · exact (if_pos htop).trans (if_pos htop).symm
      · exact (if_neg htop).trans ((hk j (by omega)).trans (if_neg htop).symm)
    · rw [heq, e]; exact hst
    · have hkk : k = s.stk := heqk
      refine Vector.ext fun j hj => ?_
      exact (hvstk ⟨j, hj⟩).trans ((hstk ⟨j, hj⟩).trans (by rw [← hkk]; rfl)).symm

theorem execSkp_sameStep {x : Reg} (h : execSkp x s = .next s') (hk : SameLiveSlots s k) :
    ∃ t', execSkp x (s.withUnread b k) = .next t' ∧ SameStep s (s.withUnread b k) s' t' := by
  have hreg : (s.withUnread b k).reg x = s.reg x := rfl
  unfold execSkp at h
  split at h <;> cases h
  next e => exact ⟨_, by rw [execSkp, hreg, e]; rfl, sameStep_skipIf hk _⟩
  next e => exact ⟨_, by rw [execSkp, hreg, e], sameStep_raise hk _ _⟩

theorem execSknp_sameStep {x : Reg} (h : execSknp x s = .next s') (hk : SameLiveSlots s k) :
    ∃ t', execSknp x (s.withUnread b k) = .next t' ∧ SameStep s (s.withUnread b k) s' t' := by
  have hreg : (s.withUnread b k).reg x = s.reg x := rfl
  unfold execSknp at h
  split at h <;> cases h
  next e => exact ⟨_, by rw [execSknp, hreg, e]; rfl, sameStep_skipIf hk _⟩
  next e => exact ⟨_, by rw [execSknp, hreg, e], sameStep_raise hk _ _⟩

theorem execLdVxK_sameStep {x : Reg} (h : execLdVxK x s = .next s') (hk : SameLiveSlots s k) :
    ∃ t', execLdVxK x (s.withUnread b k) = .next t' ∧ SameStep s (s.withUnread b k) s' t' := by
  have hkeys : (s.withUnread b k).keys = s.keys := rfl
  obtain ⟨hnone, rfl⟩ | ⟨j, hsome, rfl⟩ := execLdVxK_next h
  · exact ⟨_, by rw [execLdVxK, hkeys, hnone], rfl, hk, id, id⟩
  · exact ⟨((s.withUnread b k).setReg x (keyByte j)).advance, by rw [execLdVxK, hkeys, hsome], rfl, hk, id, id⟩

/-- The bytes loaded are the same in both machines, and so are the registers they leave. -/
theorem sameStep_setRegs (hk : SameLiveSlots s k) (bs : List Byte) (w : Word) :
    SameStep s (s.withUnread b k) ((s.setRegs bs).setIndex w).advance (((s.withUnread b k).setRegs bs).setIndex w).advance := by
  obtain ⟨v, hv, hv'⟩ : ∃ v, s.setRegs bs = { s with v := v } ∧
      (s.withUnread b k).setRegs bs = { s.withUnread b k with v := v } := by
    unfold State.setRegs
    exact ⟨_, rfl, rfl⟩
  rw [hv, hv']
  exact ⟨rfl, hk, id, id⟩

theorem exec_sameStep (h : exec i s = .next s') (hk : SameLiveSlots s k) :
    ∃ t', exec i (s.withUnread b k) = .next t' ∧ SameStep s (s.withUnread b k) s' t' := by
  cases i with
  | ret => exact execRet_sameStep h hk
  | call => exact execCall_sameStep h hk
  | skp => exact execSkp_sameStep h hk
  | sknp => exact execSknp_sameStep h hk
  | ldVxK => exact execLdVxK_sameStep h hk
  | ldStVx => cases h; exact ⟨_, rfl, rfl, hk, fun _ => rfl, id⟩
  | drw | ldB | stRegs => exact sameStep_of_withRange h hk ⟨rfl, hk, id, id⟩
  | ldRegs => exact sameStep_of_withRange h hk (sameStep_setRegs hk _ _)
  | seImm | sneImm | seReg | sneReg => cases h; exact ⟨_, rfl, sameStep_skipIf hk _⟩
  | cls | jp | jpV0 | ldImm | addImm | ldReg | or | and | xor | addReg | sub | shr | subn | shl | ldI | rnd | ldVxDt | ldDtVx
  | addI | ldF => cases h; exact ⟨_, rfl, rfl, hk, id, id⟩

theorem step_sameStep (h : step s = .next s') (hk : SameLiveSlots s k) :
    ∃ t', step (s.withUnread b k) = .next t' ∧ SameStep s (s.withUnread b k) s' t' := by
  obtain ⟨hs, e⟩ | ⟨hs, f, a, hw, e⟩ | ⟨hs, w, i, hw, hd, e⟩ | ⟨hs, w, why, hw, hd, e⟩ := step_cases s
  · cases e.symm.trans h
    exact ⟨_, stepWith_of_faulted (s := s.withUnread b k) hs _, rfl, hk, id, id⟩
  · cases e.symm.trans h
    exact ⟨_, step_eq_raise (s := s.withUnread b k) hs hw, sameStep_raise hk f a⟩
  · obtain ⟨t', ht', hsame⟩ := exec_sameStep (b := b) (e.symm.trans h) hk
    exact ⟨t', (step_eq_exec (s := s.withUnread b k) hs hw hd).trans ht', hsame⟩
  · cases e.symm.trans h
    exact ⟨_, step_eq_advance (s := s.withUnread b k) hs hw hd, rfl, hk, id, id⟩

end

/-- Settles O55: the other machine has the same stack slots, so after the step they differ in the sound timer alone. -/
theorem soundTimerIsNeverRead : Obligations.SoundTimerIsNeverRead := by
  intro s s' b h
  obtain ⟨t', ht', hsame⟩ := step_sameStep (b := b) (k := s.stk) h fun _ _ => rfl
  refine ⟨t', ht', hsame.frame.trans ?_⟩
  rw [hsame.stk rfl]
  rfl

/-- Settles O56: the other machine has the same sound timer, so after the step they differ in stale slots alone. -/
theorem staleStackSlotsAreInvisible : Obligations.StaleStackSlotsAreInvisible := by
  rintro s t s' ⟨ht, hlive⟩ h
  obtain ⟨t', ht', hsame⟩ := step_sameStep (b := s.st) (k := t.stk) h hlive
  refine ⟨t', by rw [ht]; exact ht', hsame.frame.trans ?_, hsame.live⟩
  rw [hsame.st rfl]
  rfl

end Sys2Proof.Machine

/-! PROOFS. Loading a program (70_reset_and_hazards.md R283 to R286; log 16). -/

namespace Sys2Proof.Machine

open Sys2Proof Sys2Proof.Claim

section
variable {hw : Params} {m m' : Session} {r : Response} {prog : List Byte}

theorem State.load?_of_le (s : State) (h : prog.length ≤ 3583) : s.load? prog = some (s.storeBytes 512 prog) := if_pos h

theorem State.load?_of_gt (s : State) (h : prog.length > 3583) : s.load? prog = none := if_neg (Nat.not_le_of_gt h)

theorem perform_load_refused (h : m.phase ≠ .fresh) : perform hw (.load prog) m = .refused .loadOutsideReset := by
  cases hp : m.phase with
  | fresh => exact absurd hp h
  | loaded | started => simp [perform, hp]

/-- A `Load` that is answered found a fresh machine, and leaves it loaded or reports that the program is too large (R285). -/
theorem perform_load_phase (h : perform hw (.load prog) m = .next (m', r)) :
    m.phase = .fresh ∧ (m'.phase = .loaded ∨ r = .loadTooLarge) := by
  by_cases hp : m.phase = .fresh
  · rw [perform_load_fresh hw m prog hp] at h
    split at h <;> cases h
    · exact ⟨hp, .inl rfl⟩
    · exact ⟨hp, .inr rfl⟩
  · cases (perform_load_refused hp).symm.trans h

theorem perform_step_phase (h : perform hw .step m = .next (m', r)) : m'.phase = .started := by
  obtain ⟨t, -, rfl, -⟩ := (perform_step hw m m' r).1 h
  rfl

end

/-- Settles O45: within the limit a load is the store at 512, past it nothing. -/
theorem loadCopiesOrChangesNothing : Obligations.LoadCopiesOrChangesNothing := by
  intro hw m prog hfresh hmem
  rw [perform_load_fresh hw m prog hfresh]
  refine ⟨fun h => ?_, fun h => by rw [State.load?_of_gt _ h]⟩
  rw [State.load?_of_le _ h]
  exact ⟨_, rfl, fun j hj => State.byteAt_storeBytes_inside hmem (by omega) hj,
    fun a ha => State.byteAt_storeBytes_outside ha, rfl⟩

/-- Settles O46: by operation, what the phase is afterwards. -/
theorem loadOnlyOnAFreshMachine : Obligations.LoadOnlyOnAFreshMachine := by
  intro hw m
  refine ⟨fun prog h => perform_load_refused h, fun op m' r h hreset hread hr => ?_, fun op m' r h hreset hm => ?_,
    _, _, rfl, rfl⟩
  · cases op with
    | reset => exact absurd rfl hreset
    | readFrame => exact absurd rfl hread
    | load prog => rw [(perform_load_phase h).2.resolve_right hr]; exact nofun
    | step => rw [perform_step_phase h]; exact nofun
    | tick | setKey | clearDirty => cases h; exact nofun
  · cases op with
    | reset => exact absurd rfl hreset
    | readFrame => cases h; exact hm
    | load prog => exact absurd (perform_load_phase h).1 hm
    | step => rw [perform_step_phase h]; exact nofun
    | tick | setKey | clearDirty => cases h; exact nofun

end Sys2Proof.Machine

/-! PROOFS. The state after reset and the font (10_state.md R33, 20_memory.md R68; log 13). -/

namespace Sys2Proof.Machine

open Sys2Proof Sys2Proof.Claim

section
variable {f : Font} {a : Nat}

theorem resetByteWith_of_outside (h : a < 80 ∨ 160 ≤ a) : resetByteWith f a = 0 := by
  unfold resetByteWith
  split
  · rfl
  · rw [if_neg (by omega), dif_neg (by omega)]

theorem resetByteWith_font (f : Font) (k : Fin 75) : resetByteWith f (85 + k.val) = f k := by
  unfold resetByteWith
  rw [if_neg (by omega), if_neg (by omega), dif_pos (by omega)]
  exact congrArg f (Fin.ext (Nat.add_sub_cancel_left 85 k.val))

/-- Glyph 0 is the source's, whatever the font. -/
theorem State.loadBytes_resetWith_glyphZero (f : Font) : (State.resetWith f).loadBytes 80 5 = [0xF0, 0x90, 0x90, 0x90, 0xF0] := by
  simp [State.loadBytes, Memory.readBytes, fontMemory_read, resetByteWith, glyphZero]

end

/-- Settles O58: memory by `byteAt_resetWith`, all else by the definition. -/
theorem resetWithAnyFont : Obligations.ResetWithAnyFont := by
  refine ⟨fun f => ⟨State.loadBytes_resetWith_glyphZero f, fun k => ?_, fun a ha => ?_, ?_⟩, State.resetWith_default⟩
  · rw [State.byteAt_resetWith, resetByteWith_font]
  · rw [State.byteAt_resetWith, resetByteWith_of_outside ha]
  · rw [State.resetWith_mem, State.resetWith_eq]

/-- Settles O15: `Reset` is `State.resetWith`, whose default font is written out here. -/
theorem resetState : Obligations.ResetState := by
  refine ⟨rfl, fun a ha => ?_, ?_, ?_, ?_, ?_, fun k => ?_, rfl, rfl, fun j => ?_, rfl, rfl, pixel_blankFrame, rfl, fun k => ?_,
    rfl, rfl, rfl, fun hw m => ⟨_, _, rfl, rfl⟩⟩
  · rw [← State.resetWith_default, State.byteAt_resetWith, resetByteWith_of_outside ha]
  · decide
  · decide
  · decide
  · decide
  · simp [State.reset, State.reg]
  · simp [State.reset]
  · simp [State.reset, State.key]

/-- Settles O54: FX29 points `I` at glyph `d`, five bytes for each glyph from 80 on. -/
theorem digitAddressesFindTheirGlyphs : Obligations.DigitAddressesFindTheirGlyphs := by
  intro f s x hmem _
  obtain ⟨t, ht, hti, -, -, -, hframe⟩ := (indexRegisterArithmetic s x 0).2.2.2
  have htm : t.mem = (State.resetWith f).mem := (congrArg State.mem hframe).trans hmem
  refine ⟨t, ht, fun hd => ?_, fun k hd => ?_⟩
  · rw [hti, hd, State.loadBytes, htm, ← State.loadBytes, Nat.mul_zero, Nat.add_zero, State.loadBytes_resetWith_glyphZero]
  · rw [hti, hd, show 0x50 + 5 * (k.val / 5 + 1) + k.val % 5 = 85 + k.val by omega, State.byteAt, htm, ← State.byteAt,
      State.byteAt_resetWith, resetByteWith_font]

end Sys2Proof.Machine

/-! PROOFS. The assembler (30_encoding.md R99; log 22): every instruction's line is resolved as it stands and reads back. -/

namespace Sys2Proof.Machine

open Sys2Proof Sys2Proof.Laws

/-- Every instruction is well formed, one lemma of Laws/PerInstr.lean for each. -/
theorem instr_wf (i : Instr) : i.wf = true :=
  match i with
  | .cls => AsmRoundTrip.cls
  | .ret => AsmRoundTrip.ret
  | .jp nnn => AsmRoundTrip.jp nnn
  | .call nnn => AsmRoundTrip.call nnn
  | .seImm x nn => AsmRoundTrip.seImm x nn
  | .sneImm x nn => AsmRoundTrip.sneImm x nn
  | .seReg x y => AsmRoundTrip.seReg x y
  | .ldImm x nn => AsmRoundTrip.ldImm x nn
  | .addImm x nn => AsmRoundTrip.addImm x nn
  | .ldReg x y => AsmRoundTrip.ldReg x y
  | .or x y => AsmRoundTrip.or x y
  | .and x y => AsmRoundTrip.and x y
  | .xor x y => AsmRoundTrip.xor x y
  | .addReg x y => AsmRoundTrip.addReg x y
  | .sub x y => AsmRoundTrip.sub x y
  | .shr x y => AsmRoundTrip.shr x y
  | .subn x y => AsmRoundTrip.subn x y
  | .shl x y => AsmRoundTrip.shl x y
  | .sneReg x y => AsmRoundTrip.sneReg x y
  | .ldI nnn => AsmRoundTrip.ldI nnn
  | .jpV0 nnn => AsmRoundTrip.jpV0 nnn
  | .rnd x nn => AsmRoundTrip.rnd x nn
  | .drw x y n => AsmRoundTrip.drw x y n
  | .skp x => AsmRoundTrip.skp x
  | .sknp x => AsmRoundTrip.sknp x
  | .ldVxDt x => AsmRoundTrip.ldVxDt x
  | .ldVxK x => AsmRoundTrip.ldVxK x
  | .ldDtVx x => AsmRoundTrip.ldDtVx x
  | .ldStVx x => AsmRoundTrip.ldStVx x
  | .addI x => AsmRoundTrip.addI x
  | .ldF x => AsmRoundTrip.ldF x
  | .ldB x => AsmRoundTrip.ldB x
  | .stRegs x => AsmRoundTrip.stRegs x
  | .ldRegs x => AsmRoundTrip.ldRegs x

/-- No operand of a written instruction is a label. -/
theorem resolve_asmOperands (address : String → Option Nat) (i : Instr) :
    resolve address i.asmOperands = some i.asmOperands := by
  cases i <;> rfl

theorem bodyBytes_asm (address : String → Option Nat) (i : Instr) :
    bodyBytes address (.op i.asmName i.asmOperands) = some (encodeBytes i) := by
  have hread : readOp i.asmName i.asmOperands = some i := of_decide_eq_true (instr_wf i)
  simp only [bodyBytes, resolve_asmOperands, Option.bind_some, hread, Option.map_some]

theorem linesBytes_asm (address : String → Option Nat) (is : List Instr) :
    linesBytes address (is.map fun i => ⟨none, .op i.asmName i.asmOperands⟩) = some (is.flatMap encodeBytes) := by
  induction is with
  | nil => rfl
  | cons i is ih => simp only [List.map_cons, linesBytes, bodyBytes_asm, ih, Option.bind_some, Option.map_some, List.flatMap_cons]

/-- Settles O57: line by line, at whatever address the labels would have. -/
theorem assemblerEmitsEncodings : Obligations.AssemblerEmitsEncodings := fun is => linesBytes_asm _ is

end Sys2Proof.Machine
